-- ==== Sys2Proof/Word.lean ====
section
/-! DEFINITION. The two word types of the block: a byte (spec/00_scope.md R9) and a host request word
(spec/30_encoding.md R50). -/

namespace Sys2Proof

/-- A byte, bits 7..0 (R9): a framebuffer byte, a control byte, a payload or a status byte. -/
abbrev Byte := BitVec 8

/-- A host request word (R50). -/
abbrev Hrw := BitVec 64

end Sys2Proof
end

