-- ==== Sys2Proof/Syntax.lean ====
section
/-! DEFINITION. The instructions: one constructor per row of spec/opcode_table.json. The eleven host requests
(spec/30_encoding.md R52) carry their operands as R51 assembles them; the three bus transactions (R55) carry
the byte that travels; the twenty-two SSD1306 commands (R56) are their opcode byte, the operand bytes the
block sends with one being fixed by the instance and the latches (spec/42_command_protocol.md R76 to R97). -/

namespace Sys2Proof

/-- The two pixel colours (spec/30_encoding.md R60); ON is a lit pixel. -/
inductive Color
  | off
  | on
  deriving DecidableEq, Repr

inductive Instr
  -- host requests (R52)
  | init
  | clear
  | setPixel (x y : Int) (color : Color)
  | drawLine (x0 y0 x1 y1 : Int)
  | pushFrame
  | setContrast (dim : Bool)
  | invert (on : Bool)
  | scrollRight (start stop : Byte)
  | stopScroll
  | fbRead (index : Nat)
  | fbWrite (index : Nat) (value : Byte)
  -- bus transactions (R55)
  | busCmdWrite (payload : Byte)
  | busDataWrite (payload : Byte)
  | busStatusRead (status : Byte)
  -- SSD1306 commands (R56)
  | displayOff
  | setDisplayClockDiv
  | setMultiplex
  | setDisplayOffset
  | setStartLine (line : BitVec 6)
  | chargePump
  | memoryMode
  | segRemap
  | comScanDec
  | setComPins
  | setContrastLevel
  | setPrecharge
  | setVcomDetect
  | displayAllOnResume
  | normalDisplay
  | invertDisplay
  | displayOn
  | columnAddr
  | pageAddr
  | rightHorizontalScroll
  | activateScroll
  | deactivateScroll
  deriving DecidableEq, Repr

end Sys2Proof
end

