-- ==== Sys2Proof/WellFormed.lean ====
section
/-! DEFINITION. Which instructions have an encoding: the ranges of the operand fields (spec/30_encoding.md
R51). An FBREAD or FBWRITE index at or past FB_LEN is well formed: it has a word, and the block faults on it
(spec/40_framebuffer.md R64, R65). -/

namespace Sys2Proof

/-- A coordinate that a signed 12-bit field holds (R51). -/
def fitsCoord (v : Int) : Bool := decide (-2048 ≤ v ∧ v ≤ 2047)

/-- An index that a 12-bit field holds (R51). -/
def fitsIndex (i : Nat) : Bool := decide (i < 4096)

/-- The instruction has an encoding. -/
def Instr.wf : Instr → Bool
  | .setPixel x y _ => fitsCoord x && fitsCoord y
  | .drawLine x0 y0 x1 y1 => fitsCoord x0 && fitsCoord y0 && fitsCoord x1 && fitsCoord y1
  | .fbRead i => fitsIndex i
  | .fbWrite i _ => fitsIndex i
  | .init | .clear | .pushFrame | .setContrast _ | .invert _ | .scrollRight _ _ | .stopScroll
  | .busCmdWrite _ | .busDataWrite _ | .busStatusRead _
  | .displayOff | .setDisplayClockDiv | .setMultiplex | .setDisplayOffset | .setStartLine _ | .chargePump
  | .memoryMode | .segRemap | .comScanDec | .setComPins | .setContrastLevel | .setPrecharge
  | .setVcomDetect | .displayAllOnResume | .normalDisplay | .invertDisplay | .displayOn | .columnAddr
  | .pageAddr | .rightHorizontalScroll | .activateScroll | .deactivateScroll => true

end Sys2Proof
end

