-- ==== Sys2Proof/Decode.lean ====
section
/-! DEFINITION. The decoder and the encoder (spec/30_encoding.md R50 to R57). A frame is one unit of bits that
stands for an instruction: a host request word, the two bytes of a bus write (control byte first, R43), the
byte of a status read, or a command's opcode byte. -/

namespace Sys2Proof

/-- What the bits of an instruction are, by the format column of the opcode table. -/
inductive Frame
  | request (w : Hrw)
  | busWrite (control payload : Byte)
  | statusByte (status : Byte)
  | command (opcode : Byte)
  deriving DecidableEq, Repr

/-- Why bits are no instruction. -/
inductive DecodeError
  /-- `OP` is 0x0 or in 0xC to 0xF (R53). -/
  | reservedOp
  /-- `RSV` is not 0 (R53). -/
  | reservedField
  /-- A must-be-zero field of the request is not 0 (R53). -/
  | mustBeZero
  /-- The control byte is neither 0x00 nor 0x40 (R55). -/
  | badControlByte
  /-- The byte is the opcode of no command of the table (R56). -/
  | unknownCommand
  deriving DecidableEq, Repr

/-! ### The host request word -/

/-- The fields of a request word (R50). -/
structure HrwFields where
  op : BitVec 4
  a : BitVec 12
  b : BitVec 12
  c : BitVec 12
  d : BitVec 12
  rsv : BitVec 11
  f : BitVec 1
  deriving DecidableEq, Repr

/-- Cut a request word into its fields (R50). -/
def hrwFields (w : Hrw) : HrwFields :=
  { op := w.extractLsb' 60 4, a := w.extractLsb' 48 12, b := w.extractLsb' 36 12, c := w.extractLsb' 24 12,
    d := w.extractLsb' 12 12, rsv := w.extractLsb' 1 11, f := w.extractLsb' 0 1 }

/-- Put the fields together, the first the most significant (R50; R9 for concatenation). -/
def hrwOfFields (x : HrwFields) : Hrw := x.op ++ x.a ++ x.b ++ x.c ++ x.d ++ x.rsv ++ x.f

/-- A signed 12-bit coordinate: `sext_12` (R51, R9). -/
def coordOfField (v : BitVec 12) : Int := v.toInt

/-- The field that holds a coordinate. -/
def fieldOfCoord (v : Int) : BitVec 12 := BitVec.ofInt 12 v

/-- The colour that a flag operand means (R51). -/
def colorOfFlag (f : BitVec 1) : Color := if f = 1#1 then .on else .off

def flagOfColor : Color → BitVec 1
  | .on => 1#1
  | .off => 0#1

/-- The low byte of a 12-bit field (R51: `A[7:0]`, `B[7:0]`). -/
def lowByte (v : BitVec 12) : Byte := v.extractLsb' 0 8

/-- The high four bits of a 12-bit field (R53: `A[11:8]`, `B[11:8]`). -/
def highNibble (v : BitVec 12) : BitVec 4 := v.extractLsb' 8 4

/-- The request if the field group that must be zero is zero (R53). -/
def ifZero (mustBeZero : Bool) (i : Instr) : Except DecodeError Instr :=
  if mustBeZero then .ok i else .error .mustBeZero

/-- Read a request word from its fields (R51 to R53). -/
def decodeFields (x : HrwFields) : Except DecodeError Instr :=
  if x.rsv ≠ 0 then .error .reservedField
  else match x.op.toNat with
  | 0x1 => ifZero (x.a == 0 && x.b == 0 && x.c == 0 && x.d == 0 && x.f == 0) .init
  | 0x2 => ifZero (x.a == 0 && x.b == 0 && x.c == 0 && x.d == 0 && x.f == 0) .clear
  | 0x3 => ifZero (x.c == 0 && x.d == 0) (.setPixel (coordOfField x.a) (coordOfField x.b) (colorOfFlag x.f))
  | 0x4 => ifZero (x.f == 0)
      (.drawLine (coordOfField x.a) (coordOfField x.b) (coordOfField x.c) (coordOfField x.d))
  | 0x5 => ifZero (x.a == 0 && x.b == 0 && x.c == 0 && x.d == 0 && x.f == 0) .pushFrame
  | 0x6 => ifZero (x.a == 0 && x.b == 0 && x.c == 0 && x.d == 0) (.setContrast (x.f == 1))
  | 0x7 => ifZero (x.a == 0 && x.b == 0 && x.c == 0 && x.d == 0) (.invert (x.f == 1))
  | 0x8 => ifZero (highNibble x.a == 0 && highNibble x.b == 0 && x.c == 0 && x.d == 0 && x.f == 0)
      (.scrollRight (lowByte x.a) (lowByte x.b))
  | 0x9 => ifZero (x.a == 0 && x.b == 0 && x.c == 0 && x.d == 0 && x.f == 0) .stopScroll
  | 0xA => ifZero (x.b == 0 && x.c == 0 && x.d == 0 && x.f == 0) (.fbRead x.a.toNat)
  | 0xB => ifZero (highNibble x.b == 0 && x.c == 0 && x.d == 0 && x.f == 0) (.fbWrite x.a.toNat (lowByte x.b))
  | _ => .error .reservedOp

/-- Read a host request word. -/
def decodeRequest (w : Hrw) : Except DecodeError Instr := decodeFields (hrwFields w)

/-! ### Bus transactions and commands -/

/-- Read the two bytes of a bus write (R55): control byte 0x00 is a command write, 0x40 a data write. -/
def decodeBusWrite (control payload : Byte) : Except DecodeError Instr :=
  if control = 0x00 then .ok (.busCmdWrite payload)
  else if control = 0x40 then .ok (.busDataWrite payload)
  else .error .badControlByte

/-- Read a command's opcode byte by the default table (R56); SET_START_LINE carries its line in bits 5..0
(spec/42_command_protocol.md R80). -/
def decodeCommand (opcode : Byte) : Except DecodeError Instr :=
  if opcode.extractLsb' 6 2 = 0b01#2 then .ok (.setStartLine (opcode.extractLsb' 0 6))
  else match opcode.toNat with
  | 0xAE => .ok .displayOff
  | 0xD5 => .ok .setDisplayClockDiv
  | 0xA8 => .ok .setMultiplex
  | 0xD3 => .ok .setDisplayOffset
  | 0x8D => .ok .chargePump
  | 0x20 => .ok .memoryMode
  | 0xA1 => .ok .segRemap
  | 0xC8 => .ok .comScanDec
  | 0xDA => .ok .setComPins
  | 0x81 => .ok .setContrastLevel
  | 0xD9 => .ok .setPrecharge
  | 0xDB => .ok .setVcomDetect
  | 0xA4 => .ok .displayAllOnResume
  | 0xA6 => .ok .normalDisplay
  | 0xA7 => .ok .invertDisplay
  | 0xAF => .ok .displayOn
  | 0x21 => .ok .columnAddr
  | 0x22 => .ok .pageAddr
  | 0x26 => .ok .rightHorizontalScroll
  | 0x2F => .ok .activateScroll
  | 0x2E => .ok .deactivateScroll
  | _ => .error .unknownCommand

/-- Read any frame. -/
def decode : Frame → Except DecodeError Instr
  | .request w => decodeRequest w
  | .busWrite control payload => decodeBusWrite control payload
  | .statusByte status => .ok (.busStatusRead status)
  | .command opcode => decodeCommand opcode

/-- The frame of `nbits` bits that the opcode table's row has. The table numbers a bus write with the control
byte in bits 15..8 and the payload in bits 7..0. One byte is a command where it is a command's opcode, and a
status byte otherwise.
DESIGN CHOICE, safe: the table's rows of eight bits overlap, log entry 6. -/
def tableFrame (nbits w : Nat) : Option Frame :=
  if 2 ^ nbits ≤ w then none
  else match nbits with
  | 64 => some (.request (BitVec.ofNat 64 w))
  | 16 => some (.busWrite (BitVec.ofNat 8 (w / 256)) (BitVec.ofNat 8 w))
  | 8 => match decodeCommand (BitVec.ofNat 8 w) with
    | .ok _ => some (.command (BitVec.ofNat 8 w))
    | .error _ => some (.statusByte (BitVec.ofNat 8 w))
  | _ => none

/-- The instruction whose bits, as the opcode table numbers them, are `w`. -/
def decodeTableWord (nbits w : Nat) : Option Instr :=
  match tableFrame nbits w with
  | none => none
  | some frame => match decode frame with
    | .ok i => some i
    | .error _ => none

/-! ### The encoder, from the tables of R51, R52, R55 and R56 -/

/-- A request word from its `OP` and the fields its operands fill, every other field 0. -/
def request (op : BitVec 4) (a b c d : BitVec 12) (f : BitVec 1) : Frame :=
  .request (hrwOfFields { op := op, a := a, b := b, c := c, d := d, rsv := 0, f := f })

/-- The bits of an instruction. -/
def encode : Instr → Frame
  | .init => request 0x1 0 0 0 0 0
  | .clear => request 0x2 0 0 0 0 0
  | .setPixel x y color => request 0x3 (fieldOfCoord x) (fieldOfCoord y) 0 0 (flagOfColor color)
  | .drawLine x0 y0 x1 y1 =>
    request 0x4 (fieldOfCoord x0) (fieldOfCoord y0) (fieldOfCoord x1) (fieldOfCoord y1) 0
  | .pushFrame => request 0x5 0 0 0 0 0
  | .setContrast dim => request 0x6 0 0 0 0 (BitVec.ofBool dim)
  | .invert on => request 0x7 0 0 0 0 (BitVec.ofBool on)
  | .scrollRight start stop => request 0x8 (start.setWidth 12) (stop.setWidth 12) 0 0 0
  | .stopScroll => request 0x9 0 0 0 0 0
  | .fbRead index => request 0xA (BitVec.ofNat 12 index) 0 0 0 0
  | .fbWrite index value => request 0xB (BitVec.ofNat 12 index) (value.setWidth 12) 0 0 0
  | .busCmdWrite payload => .busWrite 0x00 payload
  | .busDataWrite payload => .busWrite 0x40 payload
  | .busStatusRead status => .statusByte status
  | .displayOff => .command 0xAE
  | .setDisplayClockDiv => .command 0xD5
  | .setMultiplex => .command 0xA8
  | .setDisplayOffset => .command 0xD3
  | .setStartLine line => .command (0b01#2 ++ line)
  | .chargePump => .command 0x8D
  | .memoryMode => .command 0x20
  | .segRemap => .command 0xA1
  | .comScanDec => .command 0xC8
  | .setComPins => .command 0xDA
  | .setContrastLevel => .command 0x81
  | .setPrecharge => .command 0xD9
  | .setVcomDetect => .command 0xDB
  | .displayAllOnResume => .command 0xA4
  | .normalDisplay => .command 0xA6
  | .invertDisplay => .command 0xA7
  | .displayOn => .command 0xAF
  | .columnAddr => .command 0x21
  | .pageAddr => .command 0x22
  | .rightHorizontalScroll => .command 0x26
  | .activateScroll => .command 0x2F
  | .deactivateScroll => .command 0x2E

end Sys2Proof
end

