-- ==== Sys2Proof/Config.lean ====
section
/-! DEFINITION. The configuration of one instance of the block, as types: its geometry (spec/00_scope.md R6, R7) and
the parameters of its sequencer (R8). It is fixed for the lifetime of an instance (spec/10_state.md R26). Its
bounds and the spec's defaults stand in Sys2Proof/Machine/Parameters.lean. The block has no free value besides the
transport's answers and the order of the agents, which are inputs held in State (log entries 1 and 8). -/

namespace Sys2Proof

/-- The command table `OPC` (spec/42_command_protocol.md R75), less COLUMN_ADDR and PAGE_ADDR, which are not
parameters. -/
structure Opc where
  displayOff : Byte
  setDisplayClockDiv : Byte
  setMultiplex : Byte
  setDisplayOffset : Byte
  setStartLine : Byte
  chargePump : Byte
  memoryMode : Byte
  segRemap : Byte
  comScanDec : Byte
  setComPins : Byte
  setContrast : Byte
  setPrecharge : Byte
  setVcomDetect : Byte
  displayAllOnResume : Byte
  normalDisplay : Byte
  invertDisplay : Byte
  displayOn : Byte
  rightHorizontalScroll : Byte
  activateScroll : Byte
  deactivateScroll : Byte
  deriving DecidableEq, Repr

/-- `INIT_OPERANDS` (R98), less OFFSET and STARTLINE, which are fixed at 0, and MEMMODE, which is
`MEMMODE_OPERAND`. -/
structure InitOperands where
  clkdiv : Byte
  mux : Byte
  chargepump : Byte
  compins : Byte
  contrast : Byte
  precharge : Byte
  vcom : Byte
  deriving DecidableEq, Repr

/-- `BUSY_MODE` (spec/43_ready_poll.md R107). -/
inductive BusyMode
  | anyBit
  | bit7
  deriving DecidableEq, Repr

/-- `SCROLL_FORM` (spec/42_command_protocol.md R105). -/
inductive ScrollForm
  | ssd1306
  | minimal
  deriving DecidableEq, Repr

/-- The arguments of one instance (spec/00_scope.md R6, R8; spec/10_state.md R26). `busAddr` has the seven
bits that R7 allows, and `pollCap = none` is UNBOUNDED. -/
structure Config where
  width : Nat
  height : Nat
  pages : Nat
  busAddr : BitVec 7
  opc : Opc
  initOperands : InitOperands
  memModeOperand : Byte
  contrastDim : Byte
  contrastBright : Byte
  pollCap : Option Nat
  busyMode : BusyMode
  scrollForm : ScrollForm
  deriving DecidableEq, Repr

end Sys2Proof
end

