-- ==== Sys2Proof/Machine/Parameters.lean ====
section
/-! DEFINITION. The bounds of the parameters (spec/00_scope.md R6, R7; spec/43_ready_poll.md R113) and the spec's
defaults (spec/00_scope.md R3, R8). -/

namespace Sys2Proof

/-- COLUMN_ADDR, 0x21, fixed by the source (spec/42_command_protocol.md R75). -/
def Opc.columnAddr : Byte := 0x21

/-- PAGE_ADDR, 0x22, fixed by the source (R75). -/
def Opc.pageAddr : Byte := 0x22

/-- The default command table (spec/30_encoding.md R56, spec/42_command_protocol.md R75).
PRESUMED: the bytes are the spec's general knowledge of the SSD1306 (log entry 14). -/
def Opc.default : Opc where
  displayOff := 0xAE
  setDisplayClockDiv := 0xD5
  setMultiplex := 0xA8
  setDisplayOffset := 0xD3
  setStartLine := 0x40
  chargePump := 0x8D
  memoryMode := 0x20
  segRemap := 0xA1
  comScanDec := 0xC8
  setComPins := 0xDA
  setContrast := 0x81
  setPrecharge := 0xD9
  setVcomDetect := 0xDB
  displayAllOnResume := 0xA4
  normalDisplay := 0xA6
  invertDisplay := 0xA7
  displayOn := 0xAF
  rightHorizontalScroll := 0x26
  activateScroll := 0x2F
  deactivateScroll := 0x2E

/-- The default operands of the initialization sequence for a panel of `height` rows (R98); MUX is `HEIGHT - 1`
(R78).
PRESUMED: log entry 14. -/
def InitOperands.ofHeight (height : Nat) : InitOperands where
  clkdiv := 0x80
  mux := BitVec.ofNat 8 (height - 1)
  chargepump := 0x14
  compins := 0x02
  contrast := 0x8F
  precharge := 0xF1
  vcom := 0x40

/-- `FB_LEN = WIDTH * PAGES` (R6). -/
def Config.fbLen (c : Config) : Nat := c.width * c.pages

/-- The instances the spec admits: the geometry bounds of R7, and a poll cap of at least 1
(spec/43_ready_poll.md R113). -/
def Config.wf (c : Config) : Bool :=
  decide (1 ≤ c.width ∧ c.width ≤ 256 ∧ c.height = 8 * c.pages ∧ 1 ≤ c.pages ∧ c.pages ≤ 16 ∧ c.pollCap ≠ some 0)

/-- The instance of a panel of `width` columns and `pages` pages, every other parameter at its default (R8). -/
def Config.ofGeometry (width pages : Nat) : Config where
  width := width
  height := 8 * pages
  pages := pages
  busAddr := 0x3C
  opc := Opc.default
  initOperands := InitOperands.ofHeight (8 * pages)
  memModeOperand := 0x02
  contrastDim := 0x00
  contrastBright := 0xCF
  pollCap := some 1000
  busyMode := .anyBit
  scrollForm := .ssd1306

/-- The default instance: 128 columns, 32 rows, bus address 0x3C (R3). -/
def Config.default : Config := Config.ofGeometry 128 4

end Sys2Proof
end

