-- ==== Sys2Proof/Machine/State.lean ====
section
/-! DEFINITION. The state of the block (spec/10_state.md), the configuration of the instance, and the block's
surroundings as plain data: the words the host presents, the order in which the agents move, the transport's
answers, and the record of what the block has sent on its ports. -/

namespace Sys2Proof.Machine

/-- PHASE (R17). -/
inductive Phase
  | idle
  | pollReq
  | pollWait
  | emit
  | halted
  deriving DecidableEq, Repr

/-- CUR_OP (R18): the bus operation in flight. -/
inductive Op
  | none
  | init
  | push
  | contrast
  | invert
  | scroll
  | stopScroll
  deriving DecidableEq, Repr

/-- LAST_ERR, and the result that DONE carries (R23; spec/60_exceptions.md R132). -/
inductive Result
  | ok
  | timeout
  | transport
  deriving DecidableEq, Repr

/-- FAULT (R24; spec/60_exceptions.md R130). -/
inductive FaultCode
  | none
  | illegalRequest
  | busOverlap
  | notInitialized
  | reinit
  deriving DecidableEq, Repr

/-- The transport's answer to a bus write (spec/20_memory.md R43). -/
inductive WriteAnswer
  | ok
  | err
  deriving DecidableEq, Repr

/-- The transport's answer to a status read (spec/20_memory.md R44). -/
inductive ReadAnswer
  | ok (status : Byte)
  | err
  deriving DecidableEq, Repr

/-- Who takes the next step (spec/10_state.md R12; spec/70_reset_and_hazards.md R147, R158). -/
inductive Turn
  /-- The block attends to the word on the request port. -/
  | host
  /-- The block's sequencer takes its step. -/
  | sequencer
  /-- Reset is applied. -/
  | reset
  deriving DecidableEq, Repr

/-- The response to an accepted request (spec/30_encoding.md R54). -/
inductive Response
  | ack
  | rdata (value : Byte)
  deriving DecidableEq, Repr

/-- One event on the block's outgoing ports (spec/60_exceptions.md R143). -/
inductive PortEvent
  /-- A response on the response port (R54). -/
  | response (r : Response)
  /-- The completion signal `DONE(op, result)` (R135). -/
  | done (op : Op) (result : Result)
  /-- A bus write of two bytes, control byte first, with the answer it got (R43). -/
  | busWrite (address : BitVec 7) (control payload : Byte) (answer : WriteAnswer)
  /-- A one-byte status read, when it is emitted (R44). -/
  | busRead (address : BitVec 7)
  deriving DecidableEq, Repr

/-- Why the machine stops with a fault. The protocol faults of the spec are none of these: the block records
them in FAULT and goes on in HALTED (spec/60_exceptions.md R129). -/
inductive Fault
  /-- Raised by the sequencer's step when PHASE = EMIT and SEQ_IDX is past the end of the emission list. No
  reachable state is such, and the spec gives no effect for it (R120). Safe (log entry 16). -/
  | emissionPastEnd
  deriving DecidableEq, Repr

/-- Why the machine refuses to step. -/
inductive Refusal
  /-- Raised by `exec`'s arms for an instruction without a meaning; no arm does. Safe. -/
  | notModelled (mnemonic : String)
  /-- Raised by `step` when the parameters break spec/00_scope.md R7 or spec/43_ready_poll.md R113: the spec
  refuses such an instance, which has no run. Safe. -/
  | illegalParameters
  deriving DecidableEq, Repr

/-- Memory as the canonical list of its nonzero bytes, by rising index (log entry 12). -/
abbrev Memory := List Host.Cell

structure State where
  /-- The instance's parameters: read-only (R26; log entry 2). -/
  cfg : Config
  /-- The framebuffer `FB` (R16). -/
  fb : Memory
  phase : Phase
  curOp : Op
  /-- SEQ_IDX (R19). -/
  seqIdx : BitVec 13
  /-- POLL_CNT (R20; log entry 11). -/
  pollCnt : Nat
  /-- ARG_F (R21). -/
  argF : Bool
  /-- ARG_START (R21). -/
  argStart : Byte
  /-- ARG_STOP (R21). -/
  argStop : Byte
  /-- INIT_DONE (R22). -/
  initDone : Bool
  /-- LAST_ERR (R23). -/
  lastErr : Result
  /-- FAULT (R24). -/
  fault : FaultCode
  /-- The words the host presents, in its program order; the head is on the request port, held there until it
  is accepted (R28; spec/30_encoding.md R54; log entry 3). -/
  requests : List Hrw
  /-- Who moves next, and then (spec/44_sequencer.md R116: the order is open; log entry 1). -/
  turns : List Turn
  /-- The transport's answers to the coming bus writes, in order: free data (U15; log entry 8). -/
  writeAnswers : List WriteAnswer
  /-- The transport's answers to the outstanding and the coming status reads, in order: free data
  (spec/43_ready_poll.md R111, U14; log entry 8). -/
  readAnswers : List ReadAnswer
  /-- Everything sent on the ports so far, oldest first (log entry 15). -/
  trace : List PortEvent
  deriving DecidableEq, Repr

/-- An instance right after reset (R29; spec/70_reset_and_hazards.md R147), its surroundings offering nothing:
no word presented, no turn, no answer, nothing sent. DESIGN CHOICE for the last five fields, log entry 19. -/
def State.resetOf (cfg : Config) : State :=
  { cfg := cfg, fb := [], phase := .idle, curOp := .none, seqIdx := 0, pollCnt := 0, argF := false, argStart := 0,
    argStop := 0, initDone := false, lastErr := .ok, fault := .none, requests := [], turns := [],
    writeAnswers := [], readAnswers := [], trace := [] }

/-- The default instance right after reset (R3, R29). -/
def State.reset : State := State.resetOf Config.default

end Sys2Proof.Machine
end

