-- ==== Sys2Proof/Machine/Flags.lean ====
section
/-! DEFINITION. The block's flags (spec/10_state.md R25): the busy predicate on a status byte
(spec/43_ready_poll.md R107), SEQ_BUSY, HALTED, and the codes of the STATUS port (spec/10_state.md R17, R18,
R23, R24, R27). -/

namespace Sys2Proof.Machine

/-- `busy(s)` (R107): `(zext_16(s) << 7) != 0` under ANY_BIT, bit 7 under BIT7. -/
def busy (mode : BusyMode) (status : Byte) : Bool :=
  match mode with
  | .anyBit => (status.setWidth 16 <<< 7) != 0
  | .bit7 => status.getLsbD 7

/-- `SEQ_BUSY = (PHASE != IDLE)` (R25). -/
def State.seqBusy (s : State) : Bool := s.phase != .idle

/-- `HALTED = (PHASE = HALTED)` (R25). -/
def State.isHalted (s : State) : Bool := s.phase == .halted

/-- R17. -/
def Phase.code : Phase → BitVec 3
  | .idle => 0
  | .pollReq => 1
  | .pollWait => 2
  | .emit => 3
  | .halted => 4

/-- R18. -/
def Op.code : Op → BitVec 3
  | .none => 0
  | .init => 1
  | .push => 2
  | .contrast => 3
  | .invert => 4
  | .scroll => 5
  | .stopScroll => 6

/-- R23. -/
def Result.code : Result → BitVec 2
  | .ok => 0
  | .timeout => 1
  | .transport => 2

/-- R24. -/
def FaultCode.code : FaultCode → BitVec 3
  | .none => 0
  | .illegalRequest => 1
  | .busOverlap => 2
  | .notInitialized => 3
  | .reinit => 4

/-- The STATUS port (R27): reserved, CUR_OP, FAULT, LAST_ERR, INIT_DONE, PHASE from bit 15 down. -/
def State.status (s : State) : BitVec 16 :=
  (0 : BitVec 4) ++ s.curOp.code ++ s.fault.code ++ s.lastErr.code ++ BitVec.ofBool s.initDone ++ s.phase.code

end Sys2Proof.Machine
end

