-- ==== Sys2Proof/Machine/Operands.lean ====
section
/-! DEFINITION. The block's one address translation (spec/20_memory.md R32 to R35): a coordinate, if it is on
the panel, names one bit of one framebuffer byte. -/

namespace Sys2Proof.Machine

/-- `page(r) = floor(r / 8)` (R32). -/
def pageOf (row : Nat) : Nat := row / 8

/-- `bit(r) = r - 8 * page(r)` (R32). -/
def bitOf (row : Nat) : Nat := row - 8 * pageOf row

/-- `index(c, r) = c + WIDTH * page(r)` (R32). -/
def indexOf (cfg : Config) (column row : Nat) : Nat := column + cfg.width * pageOf row

/-- `mask(r) = 1 << bit(r)` (R32). -/
def maskOf (row : Nat) : Byte := 1#8 <<< bitOf row

/-- The pixel at 1-based `(x, y)` exists (R35, stage 1). -/
def onPanel (cfg : Config) (x y : Int) : Bool :=
  decide (1 ≤ x ∧ x ≤ cfg.width ∧ 1 ≤ y ∧ y ≤ cfg.height)

/-- The framebuffer index and the bit mask of the pixel at 1-based `(x, y)`, or none off the panel (R35). -/
def locate (cfg : Config) (x y : Int) : Option (Nat × Byte) :=
  if onPanel cfg x y then
    let column := (x - 1).toNat
    let row := (y - 1).toNat
    some (indexOf cfg column row, maskOf row)
  else none

end Sys2Proof.Machine
end

