-- ==== Sys2Proof/Machine/Ops.lean ====
section
/-! DEFINITION. The named operations that the meanings share: framebuffer bytes, the ports, recording a
protocol fault (spec/60_exceptions.md R129) and the one way out of it, reset (spec/70_reset_and_hazards.md
R147), completing a bus operation (spec/44_sequencer.md R121), and the acceptance of a request (R116 to
R118). -/

namespace Sys2Proof.Machine

/-- What a step or a meaning answers. -/
abbrev Answer := Host.Outcome State Fault Refusal

/-! ### Framebuffer bytes -/

/-- The byte at an index; an unlisted one is 0x00 (spec/10_state.md R16). -/
def Memory.read : Memory → Nat → Byte
  | [], _ => 0
  | (b, w) :: rest, a => if a < b then 0 else if a = b then w else Memory.read rest a

/-- Store a byte, keeping the canonical form (log entry 12). -/
def Memory.write : Memory → Nat → Byte → Memory
  | [], a, v => if v = 0 then [] else [(a, v)]
  | (b, w) :: rest, a, v =>
    if a < b then (if v = 0 then (b, w) :: rest else (a, v) :: (b, w) :: rest)
    else if a = b then (if v = 0 then rest else (a, v) :: rest)
    else (b, w) :: Memory.write rest a v

/-- Canonical from index `low` up to `length`: rising indices, no zero byte. -/
def Memory.wfFrom (length : Nat) : Nat → Memory → Bool
  | _, [] => true
  | low, (a, v) :: rest => decide (low ≤ a ∧ a < length ∧ v ≠ 0) && Memory.wfFrom length (a + 1) rest

/-- The canonical form of a framebuffer of `length` bytes. -/
def Memory.wf (length : Nat) (m : Memory) : Bool := Memory.wfFrom length 0 m

/-- Set or clear one pixel at 1-based `(x, y)`; off the panel, nothing (spec/40_framebuffer.md R62). -/
def paint (cfg : Config) (fb : Memory) (x y : Int) (color : Color) : Memory :=
  match locate cfg x y with
  | none => fb
  | some (i, m) => match color with
    | .on => Memory.write fb i (Memory.read fb i ||| m)
    | .off => Memory.write fb i (Memory.read fb i &&& ~~~m)

/-- The agents' turns still to come. -/
def State.withTurns (s : State) (ts : List Turn) : State := { s with turns := ts }

/-! ### Ports -/

/-- Record events sent on the ports, in order. -/
def State.send (s : State) (events : List PortEvent) : State := { s with trace := s.trace ++ events }

/-- The word on the request port is disposed of: the host goes on to its next word (log entry 3). -/
def State.takeRequest (s : State) : State := { s with requests := s.requests.tail }

/-- `respond(r)` to the request being accepted (spec/30_encoding.md R54). -/
def State.respond (s : State) (r : Response) : State := s.takeRequest.send [.response r]

/-- The answer to an outstanding status read, if there is one, is dropped (R131, R147; log entry 8). -/
def State.dropOutstanding (s : State) : State :=
  { s with readAnswers := if s.phase = .pollWait then s.readAnswers.tail else s.readAnswers }

/-! ### Faults and reset -/

/-- `raise Fault(code)` (spec/60_exceptions.md R129): only FAULT and PHASE are written, the presented word gets
no response, and the operation in flight is abandoned without DONE. -/
def State.raise (s : State) (code : FaultCode) : State :=
  { s.dropOutstanding.takeRequest with fault := code, phase := .halted }

/-- Reset (spec/70_reset_and_hazards.md R147): every state element of the block at its reset value; the
configuration, the host and the transport are as they were, but for an outstanding answer. -/
def State.applyReset (s : State) : State :=
  { State.resetOf s.cfg with
    requests := s.requests, turns := s.turns, writeAnswers := s.writeAnswers,
    readAnswers := s.dropOutstanding.readAnswers, trace := s.trace }

/-! ### Completion -/

/-- `complete(result)` (spec/44_sequencer.md R121). -/
def State.complete (s : State) (result : Result) : State :=
  let t := s.send [.done s.curOp result]
  { t with
    lastErr := result
    initDone := s.initDone || (s.curOp == .init && result == .ok)
    curOp := .none
    phase := .idle }

/-! ### Acceptance -/

/-- A legal or illegal word on the port (spec/44_sequencer.md R116): never accepted in HALTED, held in EMIT,
and otherwise attended to. -/
def State.attend (s : State) (effect : State → State) : State :=
  match s.phase with
  | .halted => s
  | .emit => s
  | .idle | .pollReq | .pollWait => effect s

/-- The operations that run the handshake first (spec/43_ready_poll.md R108). -/
def Op.polls : Op → Bool
  | .push | .scroll => true
  | .none | .init | .contrast | .invert | .stopScroll => false

/-- The checks of R118 on a legal bus request, first match first: the fault it raises, or none. -/
def State.busFault (s : State) (op : Op) : FaultCode :=
  if s.phase = .pollReq ∨ s.phase = .pollWait then .busOverlap
  else if op = .init ∧ s.initDone then .reinit
  else if op ≠ .init ∧ ¬ s.initDone then .notInitialized
  else .none

/-- Start a bus operation (R118 after its checks): CUR_OP, the operand latches, LAST_ERR, then the handshake
(spec/43_ready_poll.md R109) or the emission; ACK. -/
def State.startOp (s : State) (op : Op) (latch : State → State) : State :=
  let t := latch { s with curOp := op, lastErr := .ok }
  let u := if op.polls then { t with pollCnt := 0, phase := .pollReq }
    else { t with seqIdx := 0, phase := .emit }
  u.respond .ack

/-- Handle a legal bus request that is attended to (R118). -/
def State.acceptBus (s : State) (op : Op) (latch : State → State) : State :=
  match s.busFault op with
  | .none => s.startOp op latch
  | code => s.raise code

end Sys2Proof.Machine
end

