-- ==== Sys2Proof/Machine/Sequences.lean ====
section
/-! DEFINITION. The command sequences (spec/42_command_protocol.md R99 to R106), the emission list of the
operation in flight (spec/44_sequencer.md R119), and the commands a sequence is made of, with the bytes each
sends (R76 to R97). -/

namespace Sys2Proof.Machine

/-! ### Payload lists -/

/-- `INIT_SEQ` (R99): 25 payloads. -/
def initSeq (cfg : Config) : List Byte :=
  let opc := cfg.opc
  let operand := cfg.initOperands
  [ opc.displayOff,
    opc.setDisplayClockDiv, operand.clkdiv,
    opc.setMultiplex, operand.mux,
    opc.setDisplayOffset, 0x00,
    opc.setStartLine ||| 0,
    opc.chargePump, operand.chargepump,
    opc.memoryMode, cfg.memModeOperand,
    opc.segRemap,
    opc.comScanDec,
    opc.setComPins, operand.compins,
    opc.setContrast, operand.contrast,
    opc.setPrecharge, operand.precharge,
    opc.setVcomDetect, operand.vcom,
    opc.displayAllOnResume,
    opc.normalDisplay,
    opc.displayOn ]

/-- `WIN_SEQ` (R101). -/
def winSeq (cfg : Config) : List Byte :=
  [Opc.columnAddr, 0, BitVec.ofNat 8 (cfg.width - 1), Opc.pageAddr, 0, BitVec.ofNat 8 (cfg.pages - 1)]

/-- `DATA_SEQ` (R102): every framebuffer byte in index order (spec/20_memory.md R36). -/
def dataSeq (cfg : Config) (fb : Memory) : List Byte := (List.range cfg.fbLen).map (Memory.read fb)

/-- The operand of SET_CONTRAST in the contrast sequence (R103). -/
def contrastOperand (cfg : Config) (dim : Bool) : Byte := if dim then cfg.contrastDim else cfg.contrastBright

/-- The contrast sequence (R103). -/
def contrastSeq (cfg : Config) (dim : Bool) : List Byte := [cfg.opc.setContrast, contrastOperand cfg dim]

/-- The polarity sequence (R104). -/
def polaritySeq (cfg : Config) (on : Bool) : List Byte :=
  [if on then cfg.opc.invertDisplay else cfg.opc.normalDisplay]

/-- The operand bytes of RIGHT_HORIZONTAL_SCROLL (R95, R105). -/
def scrollOperands (cfg : Config) (start stop : Byte) : List Byte :=
  match cfg.scrollForm with
  | .ssd1306 => [0x00, start, 0x00, stop, 0x00, 0xFF]
  | .minimal => [start, 0x00, stop, 0xFF]

/-- The scroll sequence (R105). -/
def scrollSeq (cfg : Config) (start stop : Byte) : List Byte :=
  cfg.opc.rightHorizontalScroll :: scrollOperands cfg start stop ++ [cfg.opc.activateScroll]

/-- The stop-scroll sequence (R106). -/
def stopScrollSeq (cfg : Config) : List Byte := [cfg.opc.deactivateScroll]

/-! ### The emission list -/

/-- `cmd(L)`: command writes, control byte 0x00 (R73, R119). -/
def cmdEntries (payloads : List Byte) : List (Byte × Byte) := payloads.map fun b => (0x00, b)

/-- `data(L)`: data writes, control byte 0x40 (R74, R119). -/
def dataEntries (payloads : List Byte) : List (Byte × Byte) := payloads.map fun b => (0x40, b)

/-- The emission list of an operation with its operand latches (R119). -/
def emissionOf (cfg : Config) (fb : Memory) (argF : Bool) (argStart argStop : Byte) : Op → List (Byte × Byte)
  | .none => []
  | .init => cmdEntries (initSeq cfg)
  | .push => cmdEntries (winSeq cfg) ++ dataEntries (dataSeq cfg fb)
  | .contrast => cmdEntries (contrastSeq cfg argF)
  | .invert => cmdEntries (polaritySeq cfg argF)
  | .scroll => cmdEntries (scrollSeq cfg argStart argStop)
  | .stopScroll => cmdEntries (stopScrollSeq cfg)

/-- `EL(CUR_OP)` (R119), computed from CUR_OP, the operand latches and FB. -/
def State.emissionList (s : State) : List (Byte × Byte) :=
  emissionOf s.cfg s.fb s.argF s.argStart s.argStop s.curOp

/-! ### The commands of the operation in flight -/

/-- The commands that the operation in flight sends, in order: the second column of R99's table, and R101 to
R106. -/
def State.commands (s : State) : List Instr :=
  match s.curOp with
  | .none => []
  | .init =>
    [ .displayOff, .setDisplayClockDiv, .setMultiplex, .setDisplayOffset, .setStartLine 0, .chargePump,
      .memoryMode, .segRemap, .comScanDec, .setComPins, .setContrastLevel, .setPrecharge, .setVcomDetect,
      .displayAllOnResume, .normalDisplay, .displayOn ]
  | .push => [.columnAddr, .pageAddr]
  | .contrast => [.setContrastLevel]
  | .invert => [if s.argF then .invertDisplay else .normalDisplay]
  | .scroll => [.rightHorizontalScroll, .activateScroll]
  | .stopScroll => [.deactivateScroll]

/-- The payloads of a command as the block sends it: its opcode byte, then its operands in order (R73, R76 to
R97). An instruction that is no command has none. -/
def State.commandBytes (s : State) : Instr → List Byte
  | .displayOff => [s.cfg.opc.displayOff]
  | .setDisplayClockDiv => [s.cfg.opc.setDisplayClockDiv, s.cfg.initOperands.clkdiv]
  | .setMultiplex => [s.cfg.opc.setMultiplex, s.cfg.initOperands.mux]
  | .setDisplayOffset => [s.cfg.opc.setDisplayOffset, 0x00]
  | .setStartLine line => [s.cfg.opc.setStartLine ||| line.setWidth 8]
  | .chargePump => [s.cfg.opc.chargePump, s.cfg.initOperands.chargepump]
  | .memoryMode => [s.cfg.opc.memoryMode, s.cfg.memModeOperand]
  | .segRemap => [s.cfg.opc.segRemap]
  | .comScanDec => [s.cfg.opc.comScanDec]
  | .setComPins => [s.cfg.opc.setComPins, s.cfg.initOperands.compins]
  | .setContrastLevel =>
    [s.cfg.opc.setContrast,
      if s.curOp = .init then s.cfg.initOperands.contrast else contrastOperand s.cfg s.argF]
  | .setPrecharge => [s.cfg.opc.setPrecharge, s.cfg.initOperands.precharge]
  | .setVcomDetect => [s.cfg.opc.setVcomDetect, s.cfg.initOperands.vcom]
  | .displayAllOnResume => [s.cfg.opc.displayAllOnResume]
  | .normalDisplay => [s.cfg.opc.normalDisplay]
  | .invertDisplay => [s.cfg.opc.invertDisplay]
  | .displayOn => [s.cfg.opc.displayOn]
  | .columnAddr => [Opc.columnAddr, 0, BitVec.ofNat 8 (s.cfg.width - 1)]
  | .pageAddr => [Opc.pageAddr, 0, BitVec.ofNat 8 (s.cfg.pages - 1)]
  | .rightHorizontalScroll =>
    s.cfg.opc.rightHorizontalScroll :: scrollOperands s.cfg s.argStart s.argStop
  | .activateScroll => [s.cfg.opc.activateScroll]
  | .deactivateScroll => [s.cfg.opc.deactivateScroll]
  | .init | .clear | .setPixel _ _ _ | .drawLine _ _ _ _ | .pushFrame | .setContrast _ | .invert _
  | .scrollRight _ _ | .stopScroll | .fbRead _ | .fbWrite _ _ | .busCmdWrite _ | .busDataWrite _
  | .busStatusRead _ => []

/-- The command of `commands` whose first byte is the `k`-th payload, if one begins there. -/
def commandAt (bytesOf : Instr → List Byte) : List Instr → Nat → Option Instr
  | [], _ => none
  | c :: rest, k =>
    if k = 0 then some c
    else if k < (bytesOf c).length then none
    else commandAt bytesOf rest (k - (bytesOf c).length)

/-- The command that begins at SEQ_IDX in the operation in flight. -/
def State.dueCommand (s : State) : Option Instr := commandAt s.commandBytes s.commands s.seqIdx.toNat

/-- The entry that the sequencer sends next: `EL(CUR_OP)[SEQ_IDX]` while PHASE = EMIT (R120). -/
def State.dueEntry (s : State) : Option (Byte × Byte) :=
  if s.phase = .emit then s.emissionList[s.seqIdx.toNat]? else none

end Sys2Proof.Machine
end

