-- ==== Sys2Proof/Machine/Emitter.lean ====
section
/-! DEFINITION. The sequencer's transactions: one bus write of the emission list with its answer
(spec/44_sequencer.md R120), a whole command (spec/42_command_protocol.md R73), and the two halves of a status
read (spec/43_ready_poll.md R110, R112). -/

namespace Sys2Proof.Machine

/-- `BusWrite(control, payload)` and what its answer does (R120). While the transport has not answered the
block waits (spec/43_ready_poll.md R115, U17); the write is recorded with its answer (log entry 9). -/
def State.sendEntry (s : State) (control payload : Byte) : State :=
  match s.writeAnswers with
  | [] => s
  | answer :: rest =>
    let t := { s with writeAnswers := rest }.send [.busWrite s.cfg.busAddr control payload answer]
    match answer with
    | .err => t.complete .transport
    | .ok =>
      let u := { t with seqIdx := t.seqIdx + 1 }
      if u.seqIdx.toNat = u.emissionList.length then u.complete .ok else u

/-- The bus write `[control, payload]`, which the block sends only when it is the entry due (R120,
spec/30_encoding.md R57; log entry 4). -/
def State.sendIfDue (s : State) (control payload : Byte) : State :=
  if s.dueEntry = some (control, payload) then s.sendEntry control payload else s

/-- Consecutive command writes (R73). -/
def State.sendCommandWrites (s : State) : List Byte → State
  | [] => s
  | b :: rest => (s.sendIfDue 0x00 b).sendCommandWrites rest

/-- A command: its opcode byte and then its operands, each a command write of its own (R73), sent only where
the operation in flight has come to it (log entries 4 and 5). -/
def State.sendCommand (s : State) (i : Instr) : State :=
  if s.phase = .emit ∧ s.dueCommand = some i then s.sendCommandWrites (s.commandBytes i) else s

/-- `BusRead()` is emitted and its answer awaited (R110). -/
def State.requestStatus (s : State) : State :=
  { s.send [.busRead s.cfg.busAddr] with pollCnt := s.pollCnt + 1, phase := .pollWait }

/-- `POLL_CAP != UNBOUNDED and POLL_CNT >= POLL_CAP` (R112). -/
def State.capReached (s : State) : Bool :=
  match s.cfg.pollCap with
  | none => false
  | some cap => decide (cap ≤ s.pollCnt)

/-- The answer to the outstanding status read is handled (R112). -/
def State.answerStatus (s : State) (answer : ReadAnswer) : State :=
  let t := { s with readAnswers := s.readAnswers.tail }
  match answer with
  | .err => t.complete .transport
  | .ok status =>
    if busy t.cfg.busyMode status then
      if t.capReached then t.complete .timeout else { t with phase := .pollReq }
    else { t with seqIdx := 0, phase := .emit }

end Sys2Proof.Machine
end

