-- ==== Sys2Proof/Machine/BusFormats.lean ====
section
/-! DEFINITION. The three bus transactions (spec/30_encoding.md R55) as the block performs them. -/

namespace Sys2Proof.Machine

/-- BUS_CMD_WRITE (spec/42_command_protocol.md R73): `[0x00, payload]`. -/
def execBusCmdWrite (payload : Byte) (s : State) : Answer := .next (s.sendIfDue 0x00 payload)

/-- BUS_DATA_WRITE (spec/42_command_protocol.md R74): `[0x40, payload]`. -/
def execBusDataWrite (payload : Byte) (s : State) : Answer := .next (s.sendIfDue 0x40 payload)

/-- BUS_STATUS_READ (spec/20_memory.md R44): in POLL_REQ the read is emitted (spec/43_ready_poll.md R110); in
POLL_WAIT the answer `OK(status)`, if it is the one that has arrived, is handled (R112). The block emits a
status read only inside a handshake (spec/20_memory.md R41), so in every other phase nothing happens. -/
def execBusStatusRead (status : Byte) (s : State) : Answer :=
  .next (match s.phase with
    | .pollReq => s.requestStatus
    | .pollWait => if s.readAnswers.head? = some (.ok status) then s.answerStatus (.ok status) else s
    | .idle | .emit | .halted => s)

end Sys2Proof.Machine
end

