-- ==== Sys2Proof/Machine/Commands.lean ====
section
/-! DEFINITION. The twenty-two SSD1306 commands (spec/42_command_protocol.md R76 to R97). What a command does
inside the controller is out of scope (spec/00_scope.md R5 d): the block sends its bytes, each as a command
write, where the operation in flight has come to it; it writes no other block state and raises no fault. The
bytes of each stand in `State.commandBytes`. -/

namespace Sys2Proof.Machine

/-- DISPLAY_OFF (R76). -/
def execDisplayOff (s : State) : Answer := .next (s.sendCommand .displayOff)

/-- SET_DISPLAY_CLOCK_DIV (R77); operand bytes: CLKDIV. -/
def execSetDisplayClockDiv (s : State) : Answer := .next (s.sendCommand .setDisplayClockDiv)

/-- SET_MULTIPLEX (R78); operand bytes: MUX. -/
def execSetMultiplex (s : State) : Answer := .next (s.sendCommand .setMultiplex)

/-- SET_DISPLAY_OFFSET (R79); operand bytes: 0x00. -/
def execSetDisplayOffset (s : State) : Answer := .next (s.sendCommand .setDisplayOffset)

/-- SET_START_LINE (R80). The block sends line 0 only, so another line is never due. -/
def execSetStartLine (line : BitVec 6) (s : State) : Answer := .next (s.sendCommand (.setStartLine line))

/-- CHARGE_PUMP (R81); operand bytes: CHARGEPUMP. -/
def execChargePump (s : State) : Answer := .next (s.sendCommand .chargePump)

/-- MEMORY_MODE (R82); operand bytes: MEMMODE_OPERAND. -/
def execMemoryMode (s : State) : Answer := .next (s.sendCommand .memoryMode)

/-- SEG_REMAP (R83). -/
def execSegRemap (s : State) : Answer := .next (s.sendCommand .segRemap)

/-- COM_SCAN_DEC (R84). -/
def execComScanDec (s : State) : Answer := .next (s.sendCommand .comScanDec)

/-- SET_COM_PINS (R85); operand bytes: COMPINS. -/
def execSetComPins (s : State) : Answer := .next (s.sendCommand .setComPins)

/-- SET_CONTRAST (R86); operand bytes: CONTRAST in INIT, and in SETCONTRAST the value of R103. -/
def execSetContrastLevel (s : State) : Answer := .next (s.sendCommand .setContrastLevel)

/-- SET_PRECHARGE (R87); operand bytes: PRECHARGE. -/
def execSetPrecharge (s : State) : Answer := .next (s.sendCommand .setPrecharge)

/-- SET_VCOM_DETECT (R88); operand bytes: VCOM. -/
def execSetVcomDetect (s : State) : Answer := .next (s.sendCommand .setVcomDetect)

/-- DISPLAY_ALL_ON_RESUME (R89). -/
def execDisplayAllOnResume (s : State) : Answer := .next (s.sendCommand .displayAllOnResume)

/-- NORMAL_DISPLAY (R90). -/
def execNormalDisplay (s : State) : Answer := .next (s.sendCommand .normalDisplay)

/-- INVERT_DISPLAY (R91). -/
def execInvertDisplay (s : State) : Answer := .next (s.sendCommand .invertDisplay)

/-- DISPLAY_ON (R92). -/
def execDisplayOn (s : State) : Answer := .next (s.sendCommand .displayOn)

/-- COLUMN_ADDR (R93); operand bytes: 0 and WIDTH - 1. -/
def execColumnAddr (s : State) : Answer := .next (s.sendCommand .columnAddr)

/-- PAGE_ADDR (R94); operand bytes: 0 and PAGES - 1. -/
def execPageAddr (s : State) : Answer := .next (s.sendCommand .pageAddr)

/-- RIGHT_HORIZONTAL_SCROLL (R95); operand bytes: those of SCROLL_FORM with ARG_START and ARG_STOP (R105). -/
def execRightHorizontalScroll (s : State) : Answer := .next (s.sendCommand .rightHorizontalScroll)

/-- ACTIVATE_SCROLL (R96). -/
def execActivateScroll (s : State) : Answer := .next (s.sendCommand .activateScroll)

/-- DEACTIVATE_SCROLL (R97). -/
def execDeactivateScroll (s : State) : Answer := .next (s.sendCommand .deactivateScroll)

end Sys2Proof.Machine
end

