-- ==== Sys2Proof/Machine/Drawing.lean ====
section
/-! DEFINITION. DRAWLINE (spec/41_drawing.md R68 to R70): integer Bresenham on mathematical integers, its
division truncating toward zero (spec/00_scope.md R10). -/

namespace Sys2Proof.Machine

/-- What R69's loop keeps fixed. -/
structure Line where
  dx : Int
  dy : Int
  sx : Int
  sy : Int
  x1 : Int
  y1 : Int
  deriving DecidableEq, Repr

/-- The variables of R69's loop at the head of an iteration. -/
structure LinePoint where
  err : Int
  x : Int
  y : Int
  deriving DecidableEq, Repr

/-- The setup before R69's loop. -/
def lineOf (x0 y0 x1 y1 : Int) : Line :=
  { dx := |x1 - x0|, dy := |y1 - y0|, sx := if x0 < x1 then 1 else -1, sy := if y0 < y1 then 1 else -1,
    x1 := x1, y1 := y1 }

/-- The first values of the loop's variables (R69). -/
def lineStart (l : Line) (x0 y0 : Int) : LinePoint :=
  { err := (if l.dx > l.dy then l.dx else -l.dy).tdiv 2, x := x0, y := y0 }

/-- The two updates at the end of an iteration (R69); both compare the error from before them, `e2`. -/
def lineNext (l : Line) (p : LinePoint) : LinePoint :=
  let e2 := p.err
  let q := if e2 > -l.dx then { p with err := p.err - l.dy, x := p.x + l.sx } else p
  if e2 < l.dy then { q with err := q.err + l.dx, y := q.y + l.sy } else q

/-- The iterations of R69's loop in order, at most `fuel` of them; the loop exits after the endpoint. -/
def lineTrail (l : Line) : Nat → LinePoint → List LinePoint
  | 0, _ => []
  | fuel + 1, p => p :: (if p.x = l.x1 ∧ p.y = l.y1 then [] else lineTrail l fuel (lineNext l p))

/-- How many iterations R69's loop takes: `max(dx, dy) + 1`.
DEDUCED, safe: the rule states the count, log entry 13. -/
def lineCount (l : Line) : Nat := (max l.dx l.dy).toNat + 1

/-- The iterations of `DRAWLINE x0, y0, x1, y1`. -/
def lineIterations (x0 y0 x1 y1 : Int) : List LinePoint :=
  let l := lineOf x0 y0 x1 y1
  lineTrail l (lineCount l) (lineStart l x0 y0)

/-- `plot(x, y)` on 0-based coordinates: the effect of `SETPIXEL x + 1, y + 1, ON` (R68). -/
def plot (cfg : Config) (fb : Memory) (p : LinePoint) : Memory := paint cfg fb (p.x + 1) (p.y + 1) .on

/-- The framebuffer after a line (R69). -/
def drawLineOn (cfg : Config) (fb : Memory) (x0 y0 x1 y1 : Int) : Memory :=
  (lineIterations x0 y0 x1 y1).foldl (plot cfg) fb

/-- DRAWLINE (R69): one indivisible request (R70). -/
def execDrawLine (x0 y0 x1 y1 : Int) (s : State) : Answer :=
  .next (s.attend fun t => { t with fb := drawLineOn t.cfg t.fb x0 y0 x1 y1 }.respond .ack)

end Sys2Proof.Machine
end

