-- ==== Sys2Proof/Machine/Framebuffer.lean ====
section
/-! DEFINITION. The requests of spec/40_framebuffer.md. Each is performed in one indivisible step when the word
is attended to (R61), and writes no sequencer register. -/

namespace Sys2Proof.Machine

/-- SETPIXEL (R62). -/
def execSetPixel (x y : Int) (color : Color) (s : State) : Answer :=
  .next (s.attend fun t => { t with fb := paint t.cfg t.fb x y color }.respond .ack)

/-- CLEAR (R63): every byte 0x00, which the canonical form holds as no cell at all. -/
def execClear (s : State) : Answer :=
  .next (s.attend fun t => { t with fb := [] }.respond .ack)

/-- FBREAD (R64): the byte, or `Fault(ILLEGAL_REQUEST)` at or past FB_LEN. -/
def execFbRead (index : Nat) (s : State) : Answer :=
  .next (s.attend fun t =>
    if t.cfg.fbLen ≤ index then t.raise .illegalRequest
    else t.respond (.rdata (Memory.read t.fb index)))

/-- FBWRITE (R65): store the byte, or `Fault(ILLEGAL_REQUEST)` at or past FB_LEN. -/
def execFbWrite (index : Nat) (value : Byte) (s : State) : Answer :=
  .next (s.attend fun t =>
    if t.cfg.fbLen ≤ index then t.raise .illegalRequest
    else { t with fb := Memory.write t.fb index value }.respond .ack)

end Sys2Proof.Machine
end

