-- ==== Sys2Proof/Machine/Sequencer.lean ====
section
/-! DEFINITION. The six bus requests (spec/44_sequencer.md R122 to R127): each is checked and started by R118;
what it sends afterwards is the emission list of its CUR_OP (R119), one transaction a step of the
sequencer. -/

namespace Sys2Proof.Machine

/-- INIT (R122). -/
def execInit (s : State) : Answer := .next (s.attend fun t => t.acceptBus .init id)

/-- PUSHFRAME (R123). -/
def execPushFrame (s : State) : Answer := .next (s.attend fun t => t.acceptBus .push id)

/-- SETCONTRAST (R124): ARG_F is `dim`. -/
def execSetContrast (dim : Bool) (s : State) : Answer :=
  .next (s.attend fun t => t.acceptBus .contrast fun u => { u with argF := dim })

/-- INVERT (R125): ARG_F is `on`. -/
def execInvert (on : Bool) (s : State) : Answer :=
  .next (s.attend fun t => t.acceptBus .invert fun u => { u with argF := on })

/-- SCROLLRIGHT (R126): ARG_START and ARG_STOP are the page bounds, unchecked. -/
def execScrollRight (start stop : Byte) (s : State) : Answer :=
  .next (s.attend fun t => t.acceptBus .scroll fun u => { u with argStart := start, argStop := stop })

/-- STOPSCROLL (R127). -/
def execStopScroll (s : State) : Answer := .next (s.attend fun t => t.acceptBus .stopScroll id)

end Sys2Proof.Machine
end

