-- ==== Sys2Proof/Machine/Dispatch.lean ====
section
/-! DEFINITION. The meaning of every instruction: one arm per constructor. -/

namespace Sys2Proof.Machine

def exec (i : Instr) (s : State) : Host.Outcome State Fault Refusal :=
  match i with
  | .init => Sys2Proof.Machine.execInit s
  | .clear => Sys2Proof.Machine.execClear s
  | .setPixel x y color => Sys2Proof.Machine.execSetPixel x y color s
  | .drawLine x0 y0 x1 y1 => Sys2Proof.Machine.execDrawLine x0 y0 x1 y1 s
  | .pushFrame => Sys2Proof.Machine.execPushFrame s
  | .setContrast dim => Sys2Proof.Machine.execSetContrast dim s
  | .invert on => Sys2Proof.Machine.execInvert on s
  | .scrollRight start stop => Sys2Proof.Machine.execScrollRight start stop s
  | .stopScroll => Sys2Proof.Machine.execStopScroll s
  | .fbRead index => Sys2Proof.Machine.execFbRead index s
  | .fbWrite index value => Sys2Proof.Machine.execFbWrite index value s
  | .busCmdWrite payload => Sys2Proof.Machine.execBusCmdWrite payload s
  | .busDataWrite payload => Sys2Proof.Machine.execBusDataWrite payload s
  | .busStatusRead status => Sys2Proof.Machine.execBusStatusRead status s
  | .displayOff => Sys2Proof.Machine.execDisplayOff s
  | .setDisplayClockDiv => Sys2Proof.Machine.execSetDisplayClockDiv s
  | .setMultiplex => Sys2Proof.Machine.execSetMultiplex s
  | .setDisplayOffset => Sys2Proof.Machine.execSetDisplayOffset s
  | .setStartLine line => Sys2Proof.Machine.execSetStartLine line s
  | .chargePump => Sys2Proof.Machine.execChargePump s
  | .memoryMode => Sys2Proof.Machine.execMemoryMode s
  | .segRemap => Sys2Proof.Machine.execSegRemap s
  | .comScanDec => Sys2Proof.Machine.execComScanDec s
  | .setComPins => Sys2Proof.Machine.execSetComPins s
  | .setContrastLevel => Sys2Proof.Machine.execSetContrastLevel s
  | .setPrecharge => Sys2Proof.Machine.execSetPrecharge s
  | .setVcomDetect => Sys2Proof.Machine.execSetVcomDetect s
  | .displayAllOnResume => Sys2Proof.Machine.execDisplayAllOnResume s
  | .normalDisplay => Sys2Proof.Machine.execNormalDisplay s
  | .invertDisplay => Sys2Proof.Machine.execInvertDisplay s
  | .displayOn => Sys2Proof.Machine.execDisplayOn s
  | .columnAddr => Sys2Proof.Machine.execColumnAddr s
  | .pageAddr => Sys2Proof.Machine.execPageAddr s
  | .rightHorizontalScroll => Sys2Proof.Machine.execRightHorizontalScroll s
  | .activateScroll => Sys2Proof.Machine.execActivateScroll s
  | .deactivateScroll => Sys2Proof.Machine.execDeactivateScroll s

end Sys2Proof.Machine
end

