-- ==== Sys2Proof/Machine/Fetch.lean ====
section
/-! DEFINITION. What a turn of each agent does, and where an instruction is placed so that the next step runs it
(log entry 7). -/

namespace Sys2Proof.Machine

/-- The block attends to the word on the request port (spec/44_sequencer.md R116): a legal word is its
instruction, an illegal one `Fault(ILLEGAL_REQUEST)` (spec/30_encoding.md R53). -/
def State.hostTurn (s : State) : Answer :=
  match s.requests with
  | [] => .next s
  | w :: _ => match decodeRequest w with
    | .ok i => exec i s
    | .error _ => .next (s.attend fun t => t.raise .illegalRequest)

/-- The sequencer's step (spec/43_ready_poll.md R110, R112; spec/44_sequencer.md R120). In POLL_WAIT it waits
for an answer. Every entry of an emission list is a bus write of R55, so only a SEQ_IDX past the end of the
list leads to the fault, and no reachable state has one (log entry 16). -/
def State.sequencerTurn (s : State) : Answer :=
  match s.phase with
  | .idle | .halted => .next s
  | .pollReq => .next s.requestStatus
  | .pollWait => match s.readAnswers with
    | [] => .next s
    | .err :: _ => .next (s.answerStatus .err)
    | .ok status :: _ => exec (.busStatusRead status) s
  | .emit => match s.dueEntry with
    | none => .fault .emissionPastEnd
    | some (control, payload) => match decodeBusWrite control payload with
      | .ok i => exec i s
      | .error _ => .fault .emissionPastEnd

/-- A turn of an agent (spec/70_reset_and_hazards.md R147, R158). -/
def State.takeTurn (s : State) : Turn → Answer
  | .host => s.hostTurn
  | .sequencer => s.sequencerTurn
  | .reset => .next s.applyReset

/-! ### Placing an instruction -/

/-- A bus operation in flight, come to its entry `k`, the sequencer to move and its write to be acknowledged. -/
def State.emitting (s : State) (op : Op) (k : Nat) : State :=
  { s with
    phase := .emit, curOp := op, seqIdx := BitVec.ofNat 13 k, initDone := op != .init, lastErr := .ok,
    fault := .none, turns := .sequencer :: s.turns, writeAnswers := .ok :: s.writeAnswers }

/-- A command write of any byte: the start page of a scroll (R105). -/
def State.placeCmdWrite (s : State) (payload : Byte) : State :=
  let k := match s.cfg.scrollForm with
    | .ssd1306 => 2
    | .minimal => 1
  { s with argStart := payload }.emitting .scroll k

/-- A data write of any byte: the first byte of a frame (R102). -/
def State.placeDataWrite (s : State) (payload : Byte) : State :=
  { s with fb := Memory.write s.fb 0 payload }.emitting .push 6

/-- A status read answered with any byte: the first read of a push (R112). -/
def State.placeStatus (s : State) (status : Byte) : State :=
  { s with
    phase := .pollWait, curOp := .push, pollCnt := 1, initDone := true, lastErr := .ok, fault := .none,
    turns := .sequencer :: s.turns, readAnswers := .ok status :: s.readAnswers }

/-- A command where a bus operation sends it (R99 to R106). -/
def State.placeCommand (s : State) : Instr → State
  | .displayOff => s.emitting .init 0
  | .setDisplayClockDiv => s.emitting .init 1
  | .setMultiplex => s.emitting .init 3
  | .setDisplayOffset => s.emitting .init 5
  | .setStartLine _ => s.emitting .init 7
  | .chargePump => s.emitting .init 8
  | .memoryMode => s.emitting .init 10
  | .segRemap => s.emitting .init 12
  | .comScanDec => s.emitting .init 13
  | .setComPins => s.emitting .init 14
  | .setContrastLevel => s.emitting .contrast 0
  | .setPrecharge => s.emitting .init 18
  | .setVcomDetect => s.emitting .init 20
  | .displayAllOnResume => s.emitting .init 22
  | .normalDisplay => s.emitting .init 23
  | .invertDisplay => { s with argF := true }.emitting .invert 0
  | .displayOn => s.emitting .init 24
  | .columnAddr => s.emitting .push 0
  | .pageAddr => s.emitting .push 3
  | .rightHorizontalScroll => s.emitting .scroll 0
  | .activateScroll => s.emitting .scroll (match s.cfg.scrollForm with | .ssd1306 => 7 | .minimal => 5)
  | .deactivateScroll => s.emitting .stopScroll 0
  | .init | .clear | .setPixel _ _ _ | .drawLine _ _ _ _ | .pushFrame | .setContrast _ | .invert _
  | .scrollRight _ _ | .stopScroll | .fbRead _ | .fbWrite _ _ | .busCmdWrite _ | .busDataWrite _
  | .busStatusRead _ => s

/-- A frame where the next step runs it. -/
def State.place (s : State) : Frame → State
  | .request w => { s with requests := w :: s.requests, turns := .host :: s.turns }
  | .busWrite control payload =>
    if control = 0x00 then s.placeCmdWrite payload
    else if control = 0x40 then s.placeDataWrite payload
    else s
  | .statusByte status => s.placeStatus status
  | .command opcode => match decodeCommand opcode with
    | .ok i => s.placeCommand i
    | .error _ => s

end Sys2Proof.Machine
end

