-- ==== Sys2Proof/Machine/Step.lean ====
section
/-! DEFINITION. One step of the machine: the agent whose turn it is takes it (log entry 1). Without a turn no
agent moves. -/

namespace Sys2Proof.Machine

def step (s : State) : Host.Outcome State Fault Refusal :=
  if s.cfg.wf then
    match s.turns with
    | [] => .next s
    | turn :: rest => (s.withTurns rest).takeTurn turn
  else .refused .illegalParameters

/-- `s` with the instruction whose bits, as the opcode table numbers them, are `w`, where the next step runs it
(log entry 7). -/
def State.withFetchWord (s : State) (nbits w : Nat) : State :=
  match tableFrame nbits w with
  | none => s
  | some frame => s.place frame

end Sys2Proof.Machine
end

