-- ==== Sys2Proof/Machine/Assembler.lean ====
section
/-! DEFINITION. The assembler of spec/30_encoding.md R59 and R60: one request or pseudo-operation a line, its
expansion into requests (spec/40_framebuffer.md R66, R67; spec/41_drawing.md R71, R72), its words, and the text
of a line. An input it does not admit encodes no word. -/

namespace Sys2Proof.Machine

/-- A colour operand as it is spelled (R60). -/
inductive ColorOperand
  | number (n : Int)
  | name (w : List Char)
  deriving DecidableEq, Repr

/-- Normalise a colour (R60): WHITE is lit (spec/92_eei_decisions.md D12); other names are refused. -/
def ColorOperand.color : ColorOperand → Option Color
  | .number n => some (if n = 0 then .off else .on)
  | .name w =>
    if w = "true".toList ∨ w = "ON".toList ∨ w = "WHITE".toList then some .on
    else if w = "false".toList ∨ w = "OFF".toList ∨ w = "BLACK".toList then some .off
    else none

/-- One line: a request (R52) or a pseudo-operation (R59), its operands as integers and colours. -/
inductive AsmLine
  | init
  | clear
  | setPixel (x y : Int) (color : ColorOperand)
  | drawLine (x0 y0 x1 y1 : Int)
  | pushFrame
  | setContrast (dim : Int)
  | invert (on : Int)
  | scrollRight (start stop : Int)
  | stopScroll
  | fbRead (index : Int)
  | fbWrite (index value : Int)
  | setPixels (entries : List (Int × Int × ColorOperand))
  | drawBitmap (pixels : List ColorOperand)
  | asBytes
  | loadFb (bytes : List Int)
  deriving DecidableEq, Repr

/-! ### Operands -/

/-- A flag operand is 0 or 1 (R59). -/
def asmFlag (n : Int) : Option Bool := if n = 0 then some false else if n = 1 then some true else none

/-- A byte operand. DEDUCED, safe: a value that no byte holds is refused, log entry 20. -/
def asmByte (n : Int) : Option Byte := if 0 ≤ n ∧ n < 256 then some (BitVec.ofInt 8 n) else none

/-- An index operand (R51). DEDUCED, safe: a value that no 12-bit field holds is refused, log entry 20. -/
def asmIndex (n : Int) : Option Nat := if 0 ≤ n ∧ n < 4096 then some n.toNat else none

/-! ### Expansions -/

/-- `setPixels(list)` in list order (spec/41_drawing.md R71). -/
def pixelListRequests (entries : List (Int × Int × Color)) : List Instr := entries.map fun e => .setPixel e.1 e.2.1 e.2.2

/-- Pixel `i` of a bitmap in row-major order (spec/41_drawing.md R72). -/
def bitmapPixel (cfg : Config) (color : Color) (i : Nat) : Instr :=
  .setPixel ((i % cfg.width : Nat) + 1) ((i / cfg.width : Nat) + 1) color

/-- `drawBitmap(pixels)` (spec/41_drawing.md R72). -/
def bitmapRequests (cfg : Config) (pixels : List Color) : List Instr :=
  pixels.zipIdx.map fun p => bitmapPixel cfg p.1 p.2

/-- `ASBYTES` (spec/40_framebuffer.md R66). -/
def readAllRequests (cfg : Config) : List Instr := (List.range cfg.fbLen).map .fbRead

/-- `LOADFB`, admitted for a whole buffer only (spec/40_framebuffer.md R67). -/
def loadAllRequests (cfg : Config) (bytes : List Byte) : Option (List Instr) :=
  if bytes.length = cfg.fbLen then some (bytes.zipIdx.map fun p => .fbWrite p.2 p.1) else none

/-- The requests that a line stands for (R59), or none where an operand is refused. -/
def AsmLine.expand (cfg : Config) : AsmLine → Option (List Instr)
  | .init => some [.init]
  | .clear => some [.clear]
  | .setPixel x y color => color.color.map fun c => [.setPixel x y c]
  | .drawLine x0 y0 x1 y1 => some [.drawLine x0 y0 x1 y1]
  | .pushFrame => some [.pushFrame]
  | .setContrast dim => (asmFlag dim).map fun f => [.setContrast f]
  | .invert on => (asmFlag on).map fun f => [.invert f]
  | .scrollRight start stop =>
    (asmByte start).bind fun a => (asmByte stop).map fun b => [.scrollRight a b]
  | .stopScroll => some [.stopScroll]
  | .fbRead index => (asmIndex index).map fun i => [.fbRead i]
  | .fbWrite index value => (asmIndex index).bind fun i => (asmByte value).map fun v => [.fbWrite i v]
  | .setPixels entries =>
    (entries.mapM fun (e : Int × Int × ColorOperand) => e.2.2.color.map fun c => (e.1, e.2.1, c)).map pixelListRequests
  | .drawBitmap pixels => (pixels.mapM ColorOperand.color).map (bitmapRequests cfg)
  | .asBytes => some (readAllRequests cfg)
  | .loadFb bytes => (bytes.mapM asmByte).bind (loadAllRequests cfg)

/-- The request word of an instruction that has one. -/
def requestWord (i : Instr) : Option Hrw :=
  match encode i with
  | .request w => if i.wf then some w else none
  | .busWrite _ _ | .statusByte _ | .command _ => none

/-- The words that a line encodes (R59). A derived `y` that overflows its field is refused (spec/41_drawing.md
R72). -/
def AsmLine.assemble (cfg : Config) (line : AsmLine) : Option (List Hrw) :=
  (line.expand cfg).bind fun is => is.mapM requestWord

/-! ### The text of a line -/

/-- The parts of a line. -/
inductive Token
  | word (w : List Char)
  | comma
  | left
  | right
  deriving DecidableEq, Repr

/-- End the word being read. -/
def flushWord (w : List Char) (rest : List Token) : List Token := if w = [] then rest else .word w.reverse :: rest

/-- Cut a line at blanks, commas and parentheses.
DESIGN CHOICE, unsafe: which blanks separate words is open in R59, log entry 22. -/
def tokens (w : List Char) : List Char → List Token
  | [] => flushWord w []
  | c :: cs =>
    if c = ' ' ∨ c = '\t' then flushWord w (tokens [] cs)
    else if c = ',' then flushWord w (.comma :: tokens [] cs)
    else if c = '(' then flushWord w (.left :: tokens [] cs)
    else if c = ')' then flushWord w (.right :: tokens [] cs)
    else tokens (c :: w) cs

/-- A digit of base at most 16.
DESIGN CHOICE, unsafe: a hexadecimal digit may be of either case, log entry 22. -/
def digit (base : Nat) (c : Char) : Option Nat :=
  let n := c.toNat
  let v := if 48 ≤ n ∧ n ≤ 57 then n - 48 else if 65 ≤ n ∧ n ≤ 70 then n - 55
    else if 97 ≤ n ∧ n ≤ 102 then n - 87 else base
  if v < base then some v else none

/-- Digits after a value already read. -/
def digits (base value : Nat) : List Char → Option Nat
  | [] => some value
  | c :: cs => (digit base c).bind fun d => digits base (value * base + d) cs

/-- A natural number, decimal or `0x` hexadecimal (R59).
DESIGN CHOICE, unsafe: leading zeros are admitted and `0X` is not, log entry 22. -/
def natural : List Char → Option Nat
  | '0' :: 'x' :: c :: cs => digits 16 0 (c :: cs)
  | c :: cs => digits 10 0 (c :: cs)
  | [] => none

/-- An integer, decimal or `0x` hexadecimal (R59), with a minus sign in front where it is negative.
DESIGN CHOICE, unsafe: R59 is silent on signs; the model takes a minus sign before a `0x` number too, so that `-0x1`
is -1, and no plus sign, log entry 22. -/
def integer : List Char → Option Int
  | '-' :: cs => (natural cs).map fun n => -(n : Int)
  | cs => (natural cs).map fun n => (n : Int)

/-- A colour operand: an integer or a name (R60). -/
def colorOperand (w : List Char) : ColorOperand :=
  match integer w with
  | some n => .number n
  | none => .name w

/-- Comma-separated words. -/
def operandWords : List Token → Option (List (List Char))
  | [] => some []
  | [.word w] => some [w]
  | .word w :: .comma :: .word v :: rest => (operandWords (.word v :: rest)).map fun ws => w :: ws
  | _ => none

/-- Comma-separated `(x, y, colour)` entries. -/
def entryList : List Token → Option (List (Int × Int × ColorOperand))
  | [] => some []
  | [.left, .word x, .comma, .word y, .comma, .word c, .right] =>
    (integer x).bind fun a => (integer y).map fun b => [(a, b, colorOperand c)]
  | .left :: .word x :: .comma :: .word y :: .comma :: .word c :: .right :: .comma :: .left :: rest =>
    (integer x).bind fun a => (integer y).bind fun b =>
      (entryList (.left :: rest)).map fun es => (a, b, colorOperand c) :: es
  | _ => none

/-- A request by its mnemonic and operand words, in the order of R51. -/
def lineOfWords (mnemonic : List Char) (ws : List (List Char)) : Option AsmLine :=
  if mnemonic = "SETPIXEL".toList then
    match ws with
    | [x, y, c] => (integer x).bind fun a => (integer y).map fun b => .setPixel a b (colorOperand c)
    | _ => none
  else if mnemonic = "DRAWBITMAP".toList then some (.drawBitmap (ws.map colorOperand))
  else (ws.mapM integer).bind fun ns =>
    if mnemonic = "LOADFB".toList then some (.loadFb ns)
    else match ns with
    | [] =>
      if mnemonic = "INIT".toList then some .init
      else if mnemonic = "CLEAR".toList then some .clear
      else if mnemonic = "PUSHFRAME".toList then some .pushFrame
      else if mnemonic = "STOPSCROLL".toList then some .stopScroll
      else if mnemonic = "ASBYTES".toList then some .asBytes
      else none
    | [a] =>
      if mnemonic = "SETCONTRAST".toList then some (.setContrast a)
      else if mnemonic = "INVERT".toList then some (.invert a)
      else if mnemonic = "FBREAD".toList then some (.fbRead a)
      else none
    | [a, b] =>
      if mnemonic = "SCROLLRIGHT".toList then some (.scrollRight a b)
      else if mnemonic = "FBWRITE".toList then some (.fbWrite a b)
      else none
    | [a, b, c, d] => if mnemonic = "DRAWLINE".toList then some (.drawLine a b c d) else none
    | _ => none

/-- Read the text of a line (R59). -/
def parseLine (text : List Char) : Option AsmLine :=
  match tokens [] text with
  | .word m :: rest =>
    if m = "SETPIXELS".toList then (entryList rest).map .setPixels
    else (operandWords rest).bind (lineOfWords m)
  | _ => none

end Sys2Proof.Machine
end

