-- ==== Sys2Proof/Safety.lean ====
section
/-! DEFINITION. The terms that claims use: the invariant of the block, a recorded fault, a run of acknowledged
writes, and a sequence of requests. -/

namespace Sys2Proof.Machine

/-- No protocol fault has been recorded (spec/60_exceptions.md R129): a safe run is one of such states. -/
def State.safe (s : State) : Prop := s.fault = .none

/-- A bus operation is in flight. -/
def State.inFlight (s : State) : Prop := s.phase = .pollReq ∨ s.phase = .pollWait ∨ s.phase = .emit

/-- A presented word is attended to: neither held nor halted (spec/44_sequencer.md R116). -/
def State.attends (s : State) : Prop := s.phase = .idle ∨ s.phase = .pollReq ∨ s.phase = .pollWait

/-- The invariant. -/
structure State.Inv (s : State) : Prop where
  /-- The parameters are those of an admitted block (spec/00_scope.md R7). -/
  cfgOk : s.cfg.wf = true
  /-- The framebuffer keeps its canonical form within FB_LEN (spec/20_memory.md R34). -/
  fbOk : Memory.wf s.cfg.fbLen s.fb = true
  /-- No operation is in flight in IDLE (spec/10_state.md R18). -/
  idleOp : s.phase = .idle → s.curOp = .none
  /-- Only PUSHFRAME and SCROLLRIGHT run the handshake (spec/43_ready_poll.md R108). -/
  pollOp : s.phase = .pollReq ∨ s.phase = .pollWait → s.curOp.polls = true
  /-- SEQ_IDX names an entry of the emission list (spec/10_state.md R19). -/
  emitIdx : s.phase = .emit → s.seqIdx.toNat < s.emissionList.length
  /-- HALTED is exactly a recorded fault (spec/10_state.md R25). -/
  haltedFault : s.phase = .halted ↔ s.fault ≠ .none
  /-- INIT is in flight only before it has succeeded (spec/44_sequencer.md R118, REINIT). -/
  initOp : s.curOp = .init → s.initDone = false
  /-- Every other operation is in flight only after INIT (R118, NOT_INITIALIZED). -/
  otherOp : s.curOp ≠ .none → s.curOp ≠ .init → s.initDone = true
  /-- LAST_ERR is OK from acceptance to completion (R118). -/
  lastOk : s.inFlight → s.lastErr = .ok
  /-- A further status read is due only below the cap (spec/43_ready_poll.md R112, R113). -/
  reqBelowCap : ∀ cap, s.cfg.pollCap = some cap → s.phase = .pollReq → s.pollCnt < cap
  /-- The outstanding read is counted, and within the cap (R110, R113). -/
  waitWithinCap : s.phase = .pollWait → 1 ≤ s.pollCnt ∧ ∀ cap, s.cfg.pollCap = some cap → s.pollCnt ≤ cap

/-- `t` is `s` with the fault recorded and the block halted (spec/60_exceptions.md R129), whatever becomes of the
word on the port and of an outstanding answer. -/
def State.faulted (s t : State) (code : FaultCode) : Prop :=
  t = { s with fault := code, phase := .halted, requests := t.requests, readAnswers := t.readAnswers }

/-- The operation that a bus request starts (spec/44_sequencer.md R118). -/
def busRequestOp : Instr → Option Op
  | .init => some .init
  | .pushFrame => some .push
  | .setContrast _ => some .contrast
  | .invert _ => some .invert
  | .scrollRight _ _ => some .scroll
  | .stopScroll => some .stopScroll
  | .clear | .setPixel _ _ _ | .drawLine _ _ _ _ | .fbRead _ | .fbWrite _ _ | .busCmdWrite _
  | .busDataWrite _ | .busStatusRead _ | .displayOff | .setDisplayClockDiv | .setMultiplex
  | .setDisplayOffset | .setStartLine _ | .chargePump | .memoryMode | .segRemap | .comScanDec
  | .setComPins | .setContrastLevel | .setPrecharge | .setVcomDetect | .displayAllOnResume
  | .normalDisplay | .invertDisplay | .displayOn | .columnAddr | .pageAddr | .rightHorizontalScroll
  | .activateScroll | .deactivateScroll => none

/-- The framebuffer requests that write `FB` (spec/10_state.md R16). -/
def writesFb : Instr → Bool
  | .clear | .setPixel _ _ _ | .drawLine _ _ _ _ | .fbWrite _ _ => true
  | .init | .pushFrame | .setContrast _ | .invert _ | .scrollRight _ _ | .stopScroll | .fbRead _
  | .busCmdWrite _ | .busDataWrite _ | .busStatusRead _ | .displayOff | .setDisplayClockDiv
  | .setMultiplex | .setDisplayOffset | .setStartLine _ | .chargePump | .memoryMode | .segRemap
  | .comScanDec | .setComPins | .setContrastLevel | .setPrecharge | .setVcomDetect
  | .displayAllOnResume | .normalDisplay | .invertDisplay | .displayOn | .columnAddr | .pageAddr
  | .rightHorizontalScroll | .activateScroll | .deactivateScroll => false

/-- Acknowledged bus writes of emission entries, as the trace records them. -/
def sentEntries (cfg : Config) (entries : List (Byte × Byte)) : List PortEvent :=
  entries.map fun e => .busWrite cfg.busAddr e.1 e.2 .ok

/-- `s` after `n` acknowledged writes of its emission list, the last of which completes the operation if it is
the last entry (spec/44_sequencer.md R120, R121). -/
def State.advanced (s : State) (n : Nat) : State :=
  let sent := s.trace ++ sentEntries s.cfg ((s.emissionList.drop s.seqIdx.toNat).take n)
  if s.seqIdx.toNat + n = s.emissionList.length then
    { s with
      seqIdx := BitVec.ofNat 13 (s.seqIdx.toNat + n), writeAnswers := s.writeAnswers.drop n,
      phase := .idle, curOp := .none, lastErr := .ok, initDone := s.initDone || s.curOp == .init,
      trace := sent ++ [.done s.curOp .ok] }
  else
    { s with
      seqIdx := BitVec.ofNat 13 (s.seqIdx.toNat + n), writeAnswers := s.writeAnswers.drop n, trace := sent }

/-- The event is a bus transaction. -/
def PortEvent.isTransaction : PortEvent → Bool
  | .busWrite _ _ _ _ | .busRead _ => true
  | .response _ | .done _ _ => false

/-- The pixel at 0-based column and row is ON (spec/20_memory.md R32, R33). -/
def pixelAt (cfg : Config) (fb : Memory) (column row : Nat) : Bool :=
  (Memory.read fb (column + cfg.width * (row / 8))).getLsbD (row % 8)

/-- `n` steps of the machine, stopping where it stops. -/
def stepMany : Nat → State → Answer
  | 0, s => .next s
  | n + 1, s => match step s with
    | .next t => stepMany n t
    | .fault r => .fault r
    | .refused r => .refused r

/-- Requests accepted one after the other. -/
def execAll : List Instr → State → Answer
  | [], s => .next s
  | i :: rest, s => match exec i s with
    | .next t => execAll rest t
    | .fault r => .fault r
    | .refused r => .refused r

/-- The two states agree on everything but the framebuffer and what was sent. -/
def State.sameButFramebuffer (s t : State) : Prop :=
  { s with fb := [], trace := [] } = { t with fb := [], trace := [] }

/-- The mask and the match of the eleven request rows of the opcode table (R52). -/
def requestRows : List (Hrw × Hrw) :=
  [ (0xFFFFFFFFFFFFFFFF, 0x1000000000000000), (0xFFFFFFFFFFFFFFFF, 0x2000000000000000),
    (0xF000000FFFFFFFFE, 0x3000000000000000), (0xF000000000000FFF, 0x4000000000000000),
    (0xFFFFFFFFFFFFFFFF, 0x5000000000000000), (0xFFFFFFFFFFFFFFFE, 0x6000000000000000),
    (0xFFFFFFFFFFFFFFFE, 0x7000000000000000), (0xFF00F00FFFFFFFFF, 0x8000000000000000),
    (0xFFFFFFFFFFFFFFFF, 0x9000000000000000), (0xF000FFFFFFFFFFFF, 0xA000000000000000),
    (0xF000F00FFFFFFFFF, 0xB000000000000000) ]

/-- R53: the fields of a request that must be zero, by `OP`, are zero. -/
def mustBeZeroHolds (w : Hrw) : Prop :=
  let a := w.extractLsb' 48 12
  let b := w.extractLsb' 36 12
  let c := w.extractLsb' 24 12
  let d := w.extractLsb' 12 12
  let f := w.extractLsb' 0 1
  match (w.extractLsb' 60 4).toNat with
  | 1 | 2 | 5 | 9 => a = 0 ∧ b = 0 ∧ c = 0 ∧ d = 0 ∧ f = 0
  | 3 => c = 0 ∧ d = 0
  | 4 => f = 0
  | 6 | 7 => a = 0 ∧ b = 0 ∧ c = 0 ∧ d = 0
  | 8 => a.toNat < 256 ∧ b.toNat < 256 ∧ c = 0 ∧ d = 0 ∧ f = 0
  | 10 => b = 0 ∧ c = 0 ∧ d = 0 ∧ f = 0
  | 11 => b.toNat < 256 ∧ c = 0 ∧ d = 0 ∧ f = 0
  | _ => False

end Sys2Proof.Machine
end

