-- ==== Sys2Proof/Certificates/Slice0/Obligations.lean ====
section
/-! DEFINITION. The statements for the provers. Each docstring names the rules of spec/ it formalises. -/

open Sys2Proof Sys2Proof.Machine

/-! ### Reset and the parameters -/

/-- R29: after reset every state element holds its reset value. -/
def Obligations.ResetHoldsTheSpecsValues : Prop :=
  State.reset = State.resetOf Config.default ∧
  ∀ cfg, let s := State.resetOf cfg
    (∀ i, Memory.read s.fb i = 0) ∧ s.phase = .idle ∧ s.curOp = .none ∧ s.seqIdx = 0 ∧ s.pollCnt = 0 ∧
    s.argF = false ∧ s.argStart = 0 ∧ s.argStop = 0 ∧ s.initDone = false ∧ s.lastErr = .ok ∧
    s.fault = .none ∧ s.status = 0

/-- The invariant holds at reset of every admitted block. -/
def Obligations.ResetMeetsTheInvariant : Prop :=
  State.reset.Inv ∧ ∀ cfg : Config, cfg.wf = true → (State.resetOf cfg).Inv

/-- R147: reset, in any phase, puts every element of the block at its reset value, drops an outstanding answer,
sends nothing and leaves the configuration; no other turn leaves HALTED. -/
def Obligations.ResetTurnRestoresTheBlock : Prop :=
  (∀ (s : State) (ts : List Turn), s.cfg.wf = true → s.turns = .reset :: ts →
    ∃ t, step s = .next t ∧ t.cfg = s.cfg ∧ t.fb = [] ∧ t.phase = .idle ∧ t.curOp = .none ∧ t.seqIdx = 0 ∧
      t.pollCnt = 0 ∧ t.argF = false ∧ t.argStart = 0 ∧ t.argStop = 0 ∧ t.initDone = false ∧ t.lastErr = .ok ∧
      t.fault = .none ∧ t.trace = s.trace ∧ (s.phase = .pollWait → t.readAnswers = s.readAnswers.tail)) ∧
  ∀ s t : State, s.phase = .halted → step s = .next t → t.phase ≠ .halted → s.turns.head? = some .reset

/-- R7 and R113: the machine refuses exactly the parameter sets that the spec refuses. -/
def Obligations.IllegalParametersAreRefused : Prop :=
  ∀ s : State, step s = .refused .illegalParameters ↔
    ¬ (1 ≤ s.cfg.width ∧ s.cfg.width ≤ 256 ∧ s.cfg.height = 8 * s.cfg.pages ∧ 1 ≤ s.cfg.pages ∧
      s.cfg.pages ≤ 16 ∧ s.cfg.pollCap ≠ some 0)

/-- R26: no request, no transaction and no reset changes the configuration. -/
def Obligations.ConfigurationNeverChanges : Prop :=
  (∀ s t : State, step s = .next t → t.cfg = s.cfg) ∧
  ∀ (i : Instr) (s t : State), exec i s = .next t → t.cfg = s.cfg

/-! ### Encodings -/

/-- R50 to R56: every well-formed instruction is what its own bits decode to. -/
def Obligations.DecodeOfEncodeIsTheInstruction : Prop :=
  ∀ i : Instr, i.wf = true → decode (encode i) = .ok i

/-- R50 to R53: a word that decodes is the encoding of what it decodes to, so that every legal word has one
meaning. -/
def Obligations.LegalWordIsItsRequestsEncoding : Prop :=
  ∀ (w : Hrw) (i : Instr), decodeRequest w = .ok i → i.wf = true ∧ encode i = .request w

/-- R52: the words that decode are exactly those that a request row of the opcode table matches. -/
def Obligations.LegalWordsAreTheTablesRows : Prop :=
  ∀ w : Hrw, (∃ i, decodeRequest w = .ok i) ↔ ∃ row ∈ requestRows, w &&& row.1 = row.2

/-- R53: a word is illegal exactly when its `OP` is reserved, its `RSV` is not 0 or a must-be-zero field of its
request is not 0, the all-zero word among them; presenting an illegal word, where words are attended to, raises
`Fault(ILLEGAL_REQUEST)` with no response and no other effect. -/
def Obligations.IllegalWordsFault : Prop :=
  (∀ w : Hrw, (∃ e, decodeRequest w = .error e) ↔ w.extractLsb' 1 11 ≠ 0 ∨ ¬ mustBeZeroHolds w) ∧
  (∃ e, decodeRequest 0 = .error e) ∧
  ∀ (s : State) (w : Hrw) (ws : List Hrw) (ts : List Turn) (e : DecodeError),
    s.cfg.wf = true → s.attends → s.turns = .host :: ts → s.requests = w :: ws → decodeRequest w = .error e →
    ∃ t, step s = .next t ∧ (s.withTurns ts).faulted t .illegalRequest

/-- Words and bytes written out from the spec's encodings (spec/95_test_vectors.md 2.1; R55, R56), at least one of
every format, decode to the instructions they stand for. That the lone bytes 0x26 and 0x40 are read as commands and
0x01 as a status byte is the model's choice (DESIGN CHOICE, log entry 6: the opcode table gives BUS_STATUS_READ every
byte), by default opcodes that are PRESUMED (log entry 14). -/
def Obligations.WrittenOutBitsDecode : Prop :=
  decodeTableWord 64 0x1000000000000000 = some .init ∧
  decodeTableWord 64 0x3FFF005000000001 = some (.setPixel (-1) 5 .on) ∧
  decodeTableWord 64 0x4FFEFFF002001000 = some (.drawLine (-2) (-1) 2 1) ∧
  decodeTableWord 64 0x6000000000000001 = some (.setContrast true) ∧
  decodeTableWord 64 0x8001002000000000 = some (.scrollRight 1 2) ∧
  decodeTableWord 64 0xA1FF000000000000 = some (.fbRead 511) ∧
  decodeTableWord 64 0xB0030A5000000000 = some (.fbWrite 3 0xA5) ∧
  decodeTableWord 16 0x00AE = some (.busCmdWrite 0xAE) ∧
  decodeTableWord 16 0x405A = some (.busDataWrite 0x5A) ∧
  decodeTableWord 8 0x26 = some .rightHorizontalScroll ∧
  decodeTableWord 8 0x40 = some (.setStartLine 0) ∧
  decodeTableWord 8 0x01 = some (.busStatusRead 0x01)

/-- R59: where the assembler encodes a line, its words decode, in order, to the requests the line stands for. -/
def Obligations.AssembledWordsDecodeToTheExpansion : Prop :=
  ∀ (cfg : Config) (line : AsmLine) (ws : List Hrw), line.assemble cfg = some ws →
    ∃ is, line.expand cfg = some is ∧ ws.map decodeRequest = is.map .ok

/-! ### What a step runs -/

/-- R116: on the host's turn the step is the presented word's instruction. -/
def Obligations.HostTurnRunsTheDecodedRequest : Prop :=
  ∀ (s : State) (w : Hrw) (ws : List Hrw) (ts : List Turn) (i : Instr),
    s.cfg.wf = true → s.turns = .host :: ts → s.requests = w :: ws → decodeRequest w = .ok i →
    step s = exec i (s.withTurns ts)

/-- R120: on the sequencer's turn in EMIT the step is the bus write that the due entry's two bytes decode to. -/
def Obligations.SequencerTurnRunsTheDueWrite : Prop :=
  ∀ (s : State) (ts : List Turn) (c b : Byte) (i : Instr),
    s.cfg.wf = true → s.turns = .sequencer :: ts → s.dueEntry = some (c, b) → decodeBusWrite c b = .ok i →
    step s = exec i (s.withTurns ts)

/-- R110, R112: on the sequencer's turn in the handshake the step is the status read, first its emission and then
the handling of the byte that has arrived; with no answer yet it waits. -/
def Obligations.SequencerTurnRunsTheStatusRead : Prop :=
  ∀ (s : State) (ts : List Turn), s.cfg.wf = true → s.turns = .sequencer :: ts →
    (s.phase = .pollReq → ∀ b, step s = exec (.busStatusRead b) (s.withTurns ts)) ∧
    (s.phase = .pollWait → ∀ b rest, s.readAnswers = .ok b :: rest →
      step s = exec (.busStatusRead b) (s.withTurns ts)) ∧
    (s.phase = .pollWait → s.readAnswers = [] → step s = .next (s.withTurns ts))

/-! ### Framebuffer requests -/

/-- R62: SETPIXEL answers ACK; on the panel it sets or clears exactly the bit of its pixel, off the panel it
changes no byte; nothing else changes. -/
def Obligations.SetPixelChangesOneBit : Prop :=
  ∀ (s : State) (x y : Int) (color : Color), s.cfg.wf = true → Memory.wf s.cfg.fbLen s.fb = true → s.attends →
    ∃ fb, exec (.setPixel x y color) s =
        .next { s with fb := fb, requests := s.requests.tail, trace := s.trace ++ [.response .ack] } ∧
      if 1 ≤ x ∧ x ≤ s.cfg.width ∧ 1 ≤ y ∧ y ≤ s.cfg.height then
        let i := (x - 1).toNat + s.cfg.width * ((y - 1).toNat / 8)
        let m : Byte := 1#8 <<< ((y - 1).toNat % 8)
        Memory.read fb i = (match color with
          | .on => Memory.read s.fb i ||| m
          | .off => Memory.read s.fb i &&& ~~~m) ∧
        ∀ j, j ≠ i → Memory.read fb j = Memory.read s.fb j
      else fb = s.fb

/-- R32, R34: the mapper stays inside the framebuffer, and distinct pixels are distinct bits. -/
def Obligations.MapperIsInsideAndInjective : Prop :=
  ∀ (cfg : Config) (c r c' r' : Nat), cfg.wf = true → c < cfg.width → r < cfg.height → c' < cfg.width →
    r' < cfg.height →
    indexOf cfg c r < cfg.fbLen ∧ maskOf r ≠ 0 ∧
    (indexOf cfg c r = indexOf cfg c' r' → maskOf r = maskOf r' → c = c' ∧ r = r')

/-- R63: CLEAR answers ACK and leaves every byte 0x00 and everything else as it was. -/
def Obligations.ClearZeroesTheFramebuffer : Prop :=
  ∀ s : State, s.attends → ∃ fb, exec .clear s =
      .next { s with fb := fb, requests := s.requests.tail, trace := s.trace ++ [.response .ack] } ∧
    ∀ i, Memory.read fb i = 0

/-- R64: FBREAD answers RDATA with the byte and changes nothing; at or past FB_LEN it faults. -/
def Obligations.FbReadAnswersTheByte : Prop :=
  ∀ (s : State) (index : Nat), s.attends →
    if index < s.cfg.fbLen then
      exec (.fbRead index) s = .next { s with
        requests := s.requests.tail, trace := s.trace ++ [.response (.rdata (Memory.read s.fb index))] }
    else ∃ t, exec (.fbRead index) s = .next t ∧ s.faulted t .illegalRequest

/-- R65: FBWRITE answers ACK and stores the byte, every other byte staying; at or past FB_LEN it faults. -/
def Obligations.FbWriteStoresTheByte : Prop :=
  ∀ (s : State) (index : Nat) (value : Byte), Memory.wf s.cfg.fbLen s.fb = true → s.attends →
    if index < s.cfg.fbLen then
      ∃ fb, exec (.fbWrite index value) s =
          .next { s with fb := fb, requests := s.requests.tail, trace := s.trace ++ [.response .ack] } ∧
        Memory.read fb index = value ∧ ∀ j, j ≠ index → Memory.read fb j = Memory.read s.fb j
    else ∃ t, exec (.fbWrite index value) s = .next t ∧ s.faulted t .illegalRequest

/-- R68, R69: DRAWLINE answers ACK; a pixel is ON afterwards exactly if it was ON or an iteration of the line
stands on it; no byte outside the framebuffer and nothing else changes. -/
def Obligations.DrawLineSetsExactlyItsPoints : Prop :=
  ∀ (s : State) (x0 y0 x1 y1 : Int), s.cfg.wf = true → Memory.wf s.cfg.fbLen s.fb = true → s.attends →
    ∃ fb, exec (.drawLine x0 y0 x1 y1) s =
        .next { s with fb := fb, requests := s.requests.tail, trace := s.trace ++ [.response .ack] } ∧
      (∀ c r : Nat, c < s.cfg.width → r < s.cfg.height →
        (pixelAt s.cfg fb c r = true ↔ pixelAt s.cfg s.fb c r = true ∨
          ∃ p ∈ lineIterations x0 y0 x1 y1, p.x = c ∧ p.y = r)) ∧
      ∀ j, s.cfg.fbLen ≤ j → Memory.read fb j = 0

/-- R69: the loop takes `max(dx, dy) + 1` iterations and exits on the endpoint, whatever fuel is left; it starts
at the first point with the error truncated toward zero, every later iteration is the recurrence's, the error stays
in `[-dy, dx]`, and after the first of the two updates in `[-2*dy, 2*dx]`. -/
def Obligations.LineLoopCountBoundAndExit : Prop :=
  ∀ x0 y0 x1 y1 : Int,
    let dx := |x1 - x0|
    let dy := |y1 - y0|
    let sx : Int := if x0 < x1 then 1 else -1
    let sy : Int := if y0 < y1 then 1 else -1
    let l : Line := { dx := dx, dy := dy, sx := sx, sy := sy, x1 := x1, y1 := y1 }
    let first : LinePoint := { err := Int.tdiv (if dx > dy then dx else -dy) 2, x := x0, y := y0 }
    let ps := lineIterations x0 y0 x1 y1
    (ps.length : Int) = max dx dy + 1 ∧ ps.head? = some first ∧
    (∀ fuel, ps.length ≤ fuel → lineTrail l fuel first = ps) ∧
    (∀ k p q, ps[k]? = some p → ps[k + 1]? = some q →
      ¬ (p.x = x1 ∧ p.y = y1) ∧
      q.err = p.err - (if p.err > -dx then dy else 0) + (if p.err < dy then dx else 0) ∧
      q.x = p.x + (if p.err > -dx then sx else 0) ∧ q.y = p.y + (if p.err < dy then sy else 0)) ∧
    (∃ p, ps.getLast? = some p ∧ p.x = x1 ∧ p.y = y1) ∧
    (∀ p ∈ ps, -dy ≤ p.err ∧ p.err ≤ dx) ∧
    ∀ p ∈ ps, -2 * dy ≤ p.err - (if p.err > -dx then dy else 0) ∧ p.err - (if p.err > -dx then dy else 0) ≤ 2 * dx

/-- R69, corner cases: on a horizontal, vertical or 45 degree line the `k`-th point is `k` steps from the first,
so that every point is on the exact line. -/
def Obligations.StraightLinesAreExact : Prop :=
  ∀ (x0 y0 x1 y1 : Int) (k : Nat) (p : LinePoint),
    y0 = y1 ∨ x0 = x1 ∨ |x1 - x0| = |y1 - y0| → (lineIterations x0 y0 x1 y1)[k]? = some p →
    p.x = x0 + k * (x1 - x0).sign ∧ p.y = y0 + k * (y1 - y0).sign

/-! ### Bus requests -/

/-- R109, R118: PUSHFRAME and SCROLLRIGHT, in IDLE once initialized, start their operation with the handshake and
answer ACK; no transaction is emitted. -/
def Obligations.HandshakeRequestsStart : Prop :=
  ∀ (s : State) (start stop : Byte), s.phase = .idle → s.initDone = true →
    exec .pushFrame s = .next { s with
      curOp := .push, lastErr := .ok, pollCnt := 0, phase := .pollReq, requests := s.requests.tail,
      trace := s.trace ++ [.response .ack] } ∧
    exec (.scrollRight start stop) s = .next { s with
      curOp := .scroll, argStart := start, argStop := stop, lastErr := .ok, pollCnt := 0, phase := .pollReq,
      requests := s.requests.tail, trace := s.trace ++ [.response .ack] }

/-- R118: INIT before it has succeeded, and SETCONTRAST, INVERT and STOPSCROLL after, in IDLE, start their
emission at entry 0 and answer ACK. -/
def Obligations.EmissionRequestsStart : Prop :=
  ∀ (s : State) (flag : Bool), s.phase = .idle →
    (s.initDone = false → exec .init s = .next { s with
      curOp := .init, lastErr := .ok, seqIdx := 0, phase := .emit, requests := s.requests.tail,
      trace := s.trace ++ [.response .ack] }) ∧
    (s.initDone = true → exec (.setContrast flag) s = .next { s with
      curOp := .contrast, argF := flag, lastErr := .ok, seqIdx := 0, phase := .emit,
      requests := s.requests.tail, trace := s.trace ++ [.response .ack] }) ∧
    (s.initDone = true → exec (.invert flag) s = .next { s with
      curOp := .invert, argF := flag, lastErr := .ok, seqIdx := 0, phase := .emit,
      requests := s.requests.tail, trace := s.trace ++ [.response .ack] }) ∧
    (s.initDone = true → exec .stopScroll s = .next { s with
      curOp := .stopScroll, lastErr := .ok, seqIdx := 0, phase := .emit, requests := s.requests.tail,
      trace := s.trace ++ [.response .ack] })

/-- R118, R129, R130, R137: a bus request faults BUS_OVERLAP during a handshake; else, in IDLE, INIT faults REINIT
once initialized and every other bus request NOT_INITIALIZED before; it has no other effect and no response. -/
def Obligations.BusRequestsFaultInOrder : Prop :=
  ∀ (s : State) (i : Instr) (op : Op), busRequestOp i = some op →
    (s.phase = .pollReq ∨ s.phase = .pollWait → ∃ t, exec i s = .next t ∧ s.faulted t .busOverlap) ∧
    (s.phase = .idle → op = .init → s.initDone = true → ∃ t, exec i s = .next t ∧ s.faulted t .reinit) ∧
    (s.phase = .idle → op ≠ .init → s.initDone = false → ∃ t, exec i s = .next t ∧ s.faulted t .notInitialized)

/-- R117: while PHASE = EMIT every presented word, legal or not, is held: no effect and no response. -/
def Obligations.EmitHoldsEveryWord : Prop :=
  (∀ (s : State) (ts : List Turn), s.cfg.wf = true → s.phase = .emit → s.turns = .host :: ts →
    step s = .next (s.withTurns ts)) ∧
  ∀ (s : State) (w : Hrw) (i : Instr), s.phase = .emit → decodeRequest w = .ok i → exec i s = .next s

/-- R131: a halted block takes no step but reset. -/
def Obligations.HaltedBlockTakesNoStep : Prop :=
  (∀ (s : State) (turn : Turn) (ts : List Turn), s.cfg.wf = true → s.phase = .halted → s.turns = turn :: ts →
    turn ≠ .reset → step s = .next (s.withTurns ts)) ∧
  ∀ (s : State) (i : Instr), s.phase = .halted → exec i s = .next s

/-- R54: where words are attended to and no fault is raised, a request gets exactly one response, RDATA for FBREAD
and ACK for every other; a request that raises a fault gets none. -/
def Obligations.AcceptedRequestGetsOneResponse : Prop :=
  ∀ (s t : State) (w : Hrw) (i : Instr), s.attends → s.fault = .none → decodeRequest w = .ok i →
    exec i s = .next t →
    (t.fault = .none → ∃ r, t.trace = s.trace ++ [.response r] ∧ ((∃ v, r = .rdata v) ↔ ∃ k, i = .fbRead k)) ∧
    (t.fault ≠ .none → t.trace = s.trace)

/-! ### The handshake -/

/-- R107: the busy predicate of each mode. -/
def Obligations.BusyPredicateOfEachMode : Prop :=
  ∀ b : Byte, (busy .anyBit b = true ↔ b.setWidth 16 <<< 7 ≠ 0) ∧ (busy .anyBit b = true ↔ b ≠ 0) ∧
    (busy .bit7 b = true ↔ 128 ≤ b.toNat)

/-- R110: in POLL_REQ one status read to BUS_ADDR is emitted and counted, and its answer awaited. -/
def Obligations.StatusReadIsEmitted : Prop :=
  ∀ (s : State) (b : Byte), s.phase = .pollReq → exec (.busStatusRead b) s = .next { s with
    pollCnt := s.pollCnt + 1, phase := .pollWait, trace := s.trace ++ [.busRead s.cfg.busAddr] }

/-- R112: in POLL_WAIT the arrived answer is handled: ready goes on to the emission, busy retries below the cap and
ends with TIMEOUT at it, ERR ends with TRANSPORT whatever the count. -/
def Obligations.StatusAnswerIsHandled : Prop :=
  ∀ (s : State) (rest : List ReadAnswer), s.phase = .pollWait →
    (∀ b, s.readAnswers = .ok b :: rest →
      exec (.busStatusRead b) s = .next
        (if busy s.cfg.busyMode b = false then { s with readAnswers := rest, seqIdx := 0, phase := .emit }
        else if ∃ cap, s.cfg.pollCap = some cap ∧ cap ≤ s.pollCnt then
          { s with readAnswers := rest, lastErr := .timeout, curOp := .none, phase := .idle,
                   trace := s.trace ++ [.done s.curOp .timeout] }
        else { s with readAnswers := rest, phase := .pollReq }) ∧
      ∀ ts, s.cfg.wf = true → s.turns = .sequencer :: ts → step s = exec (.busStatusRead b) (s.withTurns ts)) ∧
    ∀ ts, s.cfg.wf = true → s.turns = .sequencer :: ts → s.readAnswers = .err :: rest →
      step s = .next { s with turns := ts, readAnswers := rest, lastErr := .transport, curOp := .none, phase := .idle,
                              trace := s.trace ++ [.done s.curOp .transport] }

/-- R113: if the first `N` reads are busy and the next is ready, within the cap, exactly `N + 1` reads are emitted
before the operation goes on to its emission. -/
def Obligations.HandshakeReadsUntilReady : Prop :=
  ∀ (s : State) (bs : List Byte) (b : Byte) (rest : List ReadAnswer) (ts : List Turn),
    s.cfg.wf = true → s.phase = .pollReq → s.pollCnt = 0 → (∀ x ∈ bs, busy s.cfg.busyMode x = true) →
    busy s.cfg.busyMode b = false → (∀ cap, s.cfg.pollCap = some cap → bs.length + 1 ≤ cap) →
    s.readAnswers = bs.map .ok ++ .ok b :: rest →
    s.turns = List.replicate (2 * (bs.length + 1)) .sequencer ++ ts →
    stepMany (2 * (bs.length + 1)) s = .next { s with
      phase := .emit, seqIdx := 0, pollCnt := bs.length + 1, readAnswers := rest, turns := ts,
      trace := s.trace ++ List.replicate (bs.length + 1) (.busRead s.cfg.busAddr) }

/-- R133: a handshake whose POLL_CAP reads are all busy ends with TIMEOUT, having emitted only those reads; with
POLL_CAP unbounded no busy answer ends it. -/
def Obligations.HandshakeTimesOutAtTheCap : Prop :=
  (∀ (s : State) (bs : List Byte) (rest : List ReadAnswer) (ts : List Turn),
    s.cfg.wf = true → s.phase = .pollReq → s.pollCnt = 0 → s.cfg.pollCap = some bs.length →
    (∀ x ∈ bs, busy s.cfg.busyMode x = true) → s.readAnswers = bs.map .ok ++ rest →
    s.turns = List.replicate (2 * bs.length) .sequencer ++ ts →
    stepMany (2 * bs.length) s = .next { s with
      phase := .idle, curOp := .none, lastErr := .timeout, pollCnt := bs.length, readAnswers := rest, turns := ts,
      trace := s.trace ++ List.replicate bs.length (.busRead s.cfg.busAddr) ++ [.done s.curOp .timeout] }) ∧
  ∀ (s : State) (bs : List Byte) (rest : List ReadAnswer) (ts : List Turn),
    s.cfg.wf = true → s.phase = .pollReq → s.cfg.pollCap = none →
    (∀ x ∈ bs, busy s.cfg.busyMode x = true) → s.readAnswers = bs.map .ok ++ rest →
    s.turns = List.replicate (2 * bs.length) .sequencer ++ ts →
    stepMany (2 * bs.length) s = .next { s with
      pollCnt := s.pollCnt + bs.length, readAnswers := rest, turns := ts,
      trace := s.trace ++ List.replicate bs.length (.busRead s.cfg.busAddr) }

/-! ### The emission -/

/-- R119 with R99 and R101 to R106: the emission list of each operation, for every configuration from its
parameters and for the default parameters byte by byte. The default bytes are PRESUMED, log entry 14. -/
def Obligations.EmissionListsAreTheSpecsSequences : Prop :=
  (∀ s : State,
    (s.curOp = .none → s.emissionList = []) ∧
    (s.curOp = .init → s.emissionList =
      ([s.cfg.opc.displayOff,
        s.cfg.opc.setDisplayClockDiv, s.cfg.initOperands.clkdiv,
        s.cfg.opc.setMultiplex, s.cfg.initOperands.mux,
        s.cfg.opc.setDisplayOffset, 0x00,
        s.cfg.opc.setStartLine ||| 0x00,
        s.cfg.opc.chargePump, s.cfg.initOperands.chargepump,
        s.cfg.opc.memoryMode, s.cfg.memModeOperand,
        s.cfg.opc.segRemap,
        s.cfg.opc.comScanDec,
        s.cfg.opc.setComPins, s.cfg.initOperands.compins,
        s.cfg.opc.setContrast, s.cfg.initOperands.contrast,
        s.cfg.opc.setPrecharge, s.cfg.initOperands.precharge,
        s.cfg.opc.setVcomDetect, s.cfg.initOperands.vcom,
        s.cfg.opc.displayAllOnResume,
        s.cfg.opc.normalDisplay,
        s.cfg.opc.displayOn].map fun b => ((0x00 : Byte), b))) ∧
    (s.curOp = .push → s.emissionList =
      (([0x21, 0x00, BitVec.ofNat 8 (s.cfg.width - 1), 0x22, 0x00, BitVec.ofNat 8 (s.cfg.pages - 1)] : List Byte).map
        fun b => ((0x00 : Byte), b)) ++
      (List.range (s.cfg.width * s.cfg.pages)).map fun k => ((0x40 : Byte), Memory.read s.fb k)) ∧
    (s.curOp = .contrast → s.emissionList =
      [(0x00, s.cfg.opc.setContrast), (0x00, if s.argF then s.cfg.contrastDim else s.cfg.contrastBright)]) ∧
    (s.curOp = .invert → s.emissionList =
      [(0x00, if s.argF then s.cfg.opc.invertDisplay else s.cfg.opc.normalDisplay)]) ∧
    (s.curOp = .scroll → s.cfg.scrollForm = .ssd1306 → s.emissionList =
      [(0x00, s.cfg.opc.rightHorizontalScroll), (0x00, 0x00), (0x00, s.argStart), (0x00, 0x00), (0x00, s.argStop),
        (0x00, 0x00), (0x00, 0xFF), (0x00, s.cfg.opc.activateScroll)]) ∧
    (s.curOp = .scroll → s.cfg.scrollForm = .minimal → s.emissionList =
      [(0x00, s.cfg.opc.rightHorizontalScroll), (0x00, s.argStart), (0x00, 0x00), (0x00, s.argStop), (0x00, 0xFF),
        (0x00, s.cfg.opc.activateScroll)]) ∧
    (s.curOp = .stopScroll → s.emissionList = [(0x00, s.cfg.opc.deactivateScroll)])) ∧
  ∀ s : State, s.cfg = Config.default →
    (s.curOp = .init → s.emissionList = (([0xAE, 0xD5, 0x80, 0xA8, 0x1F, 0xD3, 0x00, 0x40, 0x8D, 0x14, 0x20, 0x02,
      0xA1, 0xC8, 0xDA, 0x02, 0x81, 0x8F, 0xD9, 0xF1, 0xDB, 0x40, 0xA4, 0xA6, 0xAF] : List Byte).map
        fun b => ((0x00 : Byte), b))) ∧
    (s.curOp = .push → s.emissionList =
      (([0x21, 0, 127, 0x22, 0, 3] : List Byte).map fun b => ((0x00 : Byte), b)) ++
      (List.range 512).map fun k => ((0x40 : Byte), Memory.read s.fb k)) ∧
    (s.curOp = .contrast → s.emissionList = [(0x00, 0x81), (0x00, if s.argF then 0x00 else 0xCF)]) ∧
    (s.curOp = .invert → s.emissionList = [(0x00, if s.argF then 0xA7 else 0xA6)]) ∧
    (s.curOp = .scroll → s.emissionList = [(0x00, 0x26), (0x00, 0x00), (0x00, s.argStart), (0x00, 0x00),
      (0x00, s.argStop), (0x00, 0x00), (0x00, 0xFF), (0x00, 0x2F)]) ∧
    (s.curOp = .stopScroll → s.emissionList = [(0x00, 0x2E)])

/-- R73, R76 to R97: the command writes of an operation are its commands' bytes, opcode first, one command after
the other. -/
def Obligations.EmissionListIsItsCommands : Prop :=
  ∀ s : State, s.commands.flatMap s.commandBytes =
    (s.emissionList.filter fun e => e.1 == 0x00).map fun e => e.2

/-- R56, R76 to R97, R103, R105: the bytes of each command, for every configuration from its parameters and for the
default parameters byte by byte. The default bytes are PRESUMED, log entry 14. -/
def Obligations.CommandBytesAreTheirRules : Prop :=
  (∀ s : State,
    s.commandBytes .displayOff = [s.cfg.opc.displayOff] ∧
    s.commandBytes .setDisplayClockDiv = [s.cfg.opc.setDisplayClockDiv, s.cfg.initOperands.clkdiv] ∧
    s.commandBytes .setMultiplex = [s.cfg.opc.setMultiplex, s.cfg.initOperands.mux] ∧
    s.commandBytes .setDisplayOffset = [s.cfg.opc.setDisplayOffset, 0x00] ∧
    s.commandBytes (.setStartLine 0) = [s.cfg.opc.setStartLine ||| 0x00] ∧
    s.commandBytes .chargePump = [s.cfg.opc.chargePump, s.cfg.initOperands.chargepump] ∧
    s.commandBytes .memoryMode = [s.cfg.opc.memoryMode, s.cfg.memModeOperand] ∧
    s.commandBytes .segRemap = [s.cfg.opc.segRemap] ∧ s.commandBytes .comScanDec = [s.cfg.opc.comScanDec] ∧
    s.commandBytes .setComPins = [s.cfg.opc.setComPins, s.cfg.initOperands.compins] ∧
    (s.curOp = .init → s.commandBytes .setContrastLevel = [s.cfg.opc.setContrast, s.cfg.initOperands.contrast]) ∧
    (s.curOp = .contrast → s.commandBytes .setContrastLevel =
      [s.cfg.opc.setContrast, if s.argF then s.cfg.contrastDim else s.cfg.contrastBright]) ∧
    s.commandBytes .setPrecharge = [s.cfg.opc.setPrecharge, s.cfg.initOperands.precharge] ∧
    s.commandBytes .setVcomDetect = [s.cfg.opc.setVcomDetect, s.cfg.initOperands.vcom] ∧
    s.commandBytes .displayAllOnResume = [s.cfg.opc.displayAllOnResume] ∧
    s.commandBytes .normalDisplay = [s.cfg.opc.normalDisplay] ∧
    s.commandBytes .invertDisplay = [s.cfg.opc.invertDisplay] ∧ s.commandBytes .displayOn = [s.cfg.opc.displayOn] ∧
    s.commandBytes .columnAddr = [0x21, 0x00, BitVec.ofNat 8 (s.cfg.width - 1)] ∧
    s.commandBytes .pageAddr = [0x22, 0x00, BitVec.ofNat 8 (s.cfg.pages - 1)] ∧
    (s.cfg.scrollForm = .ssd1306 → s.commandBytes .rightHorizontalScroll =
      [s.cfg.opc.rightHorizontalScroll, 0x00, s.argStart, 0x00, s.argStop, 0x00, 0xFF]) ∧
    (s.cfg.scrollForm = .minimal → s.commandBytes .rightHorizontalScroll =
      [s.cfg.opc.rightHorizontalScroll, s.argStart, 0x00, s.argStop, 0xFF]) ∧
    s.commandBytes .activateScroll = [s.cfg.opc.activateScroll] ∧
    s.commandBytes .deactivateScroll = [s.cfg.opc.deactivateScroll]) ∧
  ∀ s : State, s.cfg = Config.default →
    s.commandBytes .displayOff = [0xAE] ∧ s.commandBytes .setDisplayClockDiv = [0xD5, 0x80] ∧
    s.commandBytes .setMultiplex = [0xA8, 0x1F] ∧ s.commandBytes .setDisplayOffset = [0xD3, 0x00] ∧
    s.commandBytes (.setStartLine 0) = [0x40] ∧ s.commandBytes .chargePump = [0x8D, 0x14] ∧
    s.commandBytes .memoryMode = [0x20, 0x02] ∧ s.commandBytes .segRemap = [0xA1] ∧
    s.commandBytes .comScanDec = [0xC8] ∧ s.commandBytes .setComPins = [0xDA, 0x02] ∧
    (s.curOp = .init → s.commandBytes .setContrastLevel = [0x81, 0x8F]) ∧
    (s.curOp = .contrast → s.commandBytes .setContrastLevel = [0x81, if s.argF then 0x00 else 0xCF]) ∧
    s.commandBytes .setPrecharge = [0xD9, 0xF1] ∧ s.commandBytes .setVcomDetect = [0xDB, 0x40] ∧
    s.commandBytes .displayAllOnResume = [0xA4] ∧ s.commandBytes .normalDisplay = [0xA6] ∧
    s.commandBytes .invertDisplay = [0xA7] ∧ s.commandBytes .displayOn = [0xAF] ∧
    s.commandBytes .columnAddr = [0x21, 0x00, 0x7F] ∧ s.commandBytes .pageAddr = [0x22, 0x00, 0x03] ∧
    s.commandBytes .rightHorizontalScroll = [0x26, 0x00, s.argStart, 0x00, s.argStop, 0x00, 0xFF] ∧
    s.commandBytes .activateScroll = [0x2F] ∧ s.commandBytes .deactivateScroll = [0x2E]

/-- R120, R121: the due bus write is sent to BUS_ADDR; acknowledged it advances SEQ_IDX, and as the last entry
completes the operation; ERR ends it with TRANSPORT. That a write counts as sent together with its answer, so that
the block which still waits for the answer is unchanged, its trace included, is the model's inference (DEDUCED, log
entry 9). -/
def Obligations.DueWriteIsSent : Prop :=
  ∀ (s : State) (c b : Byte) (i : Instr) (rest : List WriteAnswer), s.cfg.wf = true → s.dueEntry = some (c, b) →
    decodeBusWrite c b = .ok i →
    (s.writeAnswers = .ok :: rest → exec i s = .next (s.advanced 1)) ∧
    (s.writeAnswers = .err :: rest → exec i s = .next { s with
      writeAnswers := rest, lastErr := .transport, curOp := .none, phase := .idle,
      trace := s.trace ++ [.busWrite s.cfg.busAddr c b .err, .done s.curOp .transport] }) ∧
    (s.writeAnswers = [] → exec i s = .next s) ∧
    ∀ ts, s.turns = .sequencer :: ts → step s = exec i (s.withTurns ts)

/-- R73, R76 to R97: where the operation has come to a command (one of the 22 of R56, SET_START_LINE with line 0),
the command sends its opcode and operand bytes, in order, each as a command write, and advances SEQ_IDX by their
number; every entry of a list but a push's is a command write. -/
def Obligations.CommandSendsItsBytes : Prop :=
  (∀ (s : State) (i : Instr) (rest : List WriteAnswer), s.cfg.wf = true → s.phase = .emit → s.dueCommand = some i →
    s.writeAnswers = List.replicate (s.commandBytes i).length .ok ++ rest →
    exec i s = .next (s.advanced (s.commandBytes i).length) ∧
    (s.advanced (s.commandBytes i).length).trace.take (s.trace.length + (s.commandBytes i).length) =
      s.trace ++ sentEntries s.cfg ((s.commandBytes i).map fun b => (0x00, b))) ∧
  ∀ s : State, s.curOp ≠ .push → ∀ e ∈ s.emissionList, e.1 = 0x00

/-- R73, R120: a command of `k` bytes is `k` steps of the sequencer, whatever the transport answers; where an answer
has not arrived, by the model's inference on when a write counts as sent (DEDUCED, log entry 9). That an instruction
runs a whole command is the model's choice (DESIGN CHOICE, log entry 5). -/
def Obligations.CommandIsItsSequencerSteps : Prop :=
  ∀ (s : State) (i : Instr) (ts : List Turn), s.cfg.wf = true → s.phase = .emit → s.dueCommand = some i →
    s.turns = List.replicate (s.commandBytes i).length .sequencer ++ ts →
    stepMany (s.commandBytes i).length s = exec i (s.withTurns ts)

/-- Log entry 4 (the model's own convention for R57 and R80): a bus write that is not due and a command that the
operation has not come to do nothing, SET_START_LINE with a line other than 0 among them. -/
def Obligations.WhatIsNotDueIsNotSent : Prop :=
  (∀ (s : State) (c b : Byte) (i : Instr), decodeBusWrite c b = .ok i → s.dueEntry ≠ some (c, b) →
    exec i s = .next s) ∧
  (∀ (s : State) (opcode : Byte) (i : Instr), decodeCommand opcode = .ok i → s.dueCommand ≠ some i →
    exec i s = .next s) ∧
  ∀ (s : State) (line : BitVec 6), line ≠ 0 → exec (.setStartLine line) s = .next s

/-- R31, R55, R57: whatever instruction runs, a bus write it sends goes to BUS_ADDR and is an entry of the emission
list of the operation in flight, and a status read goes to BUS_ADDR. -/
def Obligations.OnlyEmissionEntriesAreSent : Prop :=
  ∀ (i : Instr) (s t : State), exec i s = .next t → ∃ events, t.trace = s.trace ++ events ∧
    (∀ address c b answer, PortEvent.busWrite address c b answer ∈ events →
      s.phase = .emit ∧ address = s.cfg.busAddr ∧ (c, b) ∈ s.emissionList ∧ (c = 0x00 ∨ c = 0x40)) ∧
    ∀ address, PortEvent.busRead address ∈ events → s.phase = .pollReq ∧ address = s.cfg.busAddr

/-- R120, R121, R132: with `n` acknowledged writes and `n` turns of the sequencer, the next `n` entries of the
emission list are sent in order, and the operation completes with OK exactly when they are all. -/
def Obligations.EmissionRunsInOrder : Prop :=
  ∀ (s : State) (n : Nat) (rest : List WriteAnswer) (ts : List Turn),
    s.cfg.wf = true → s.phase = .emit → 0 < n → s.seqIdx.toNat + n ≤ s.emissionList.length →
    s.writeAnswers = List.replicate n .ok ++ rest → s.turns = List.replicate n .sequencer ++ ts →
    stepMany n s = .next ((s.advanced n).withTurns ts)

/-- R134: at the first ERR the operation ends with TRANSPORT: the writes before it stay sent, none follows, the
framebuffer and INIT_DONE are as they were. -/
def Obligations.TransportErrorEndsTheOperation : Prop :=
  ∀ (s : State) (n : Nat) (rest : List WriteAnswer) (ts : List Turn) (c b : Byte),
    s.cfg.wf = true → s.phase = .emit → s.emissionList[s.seqIdx.toNat + n]? = some (c, b) →
    s.writeAnswers = List.replicate n .ok ++ .err :: rest → s.turns = List.replicate (n + 1) .sequencer ++ ts →
    stepMany (n + 1) s = .next { s with
      seqIdx := BitVec.ofNat 13 (s.seqIdx.toNat + n), writeAnswers := rest, turns := ts,
      lastErr := .transport, curOp := .none, phase := .idle,
      trace := s.trace ++ sentEntries s.cfg ((s.emissionList.drop s.seqIdx.toNat).take n) ++
        [.busWrite s.cfg.busAddr c b .err, .done s.curOp .transport] }

/-- R117, R153: during the emission, turns of the host change nothing: the frame is the same as without them. -/
def Obligations.HeldWordsDoNotChangeTheFrame : Prop :=
  ∀ (s : State) (turns ts : List Turn) (rest : List WriteAnswer),
    s.cfg.wf = true → s.phase = .emit → (∀ turn ∈ turns, turn ≠ .reset) →
    s.seqIdx.toNat + turns.count .sequencer < s.emissionList.length →
    s.writeAnswers = List.replicate (turns.count .sequencer) .ok ++ rest → s.turns = turns ++ ts →
    stepMany turns.length s = .next ((s.advanced (turns.count .sequencer)).withTurns ts)

/-- R128: from reset, whatever the framebuffer holds by then, INIT and PUSHFRAME with every answer OK and the first
status read ready emit in order the 25 command writes of INIT, one status read, the 6 window writes and the 512
bytes of the framebuffer. -/
def Obligations.InitThenPushEndToEnd : Prop :=
  ∀ fb : Memory,
    let s := { State.reset with
      fb := fb, requests := [0x1000000000000000, 0x5000000000000000],
      turns := .host :: List.replicate 25 .sequencer ++ .host :: List.replicate 520 .sequencer,
      writeAnswers := List.replicate 543 .ok, readAnswers := [.ok 0x00] }
    ∃ t, stepMany 547 s = .next t ∧
      t.trace.filter PortEvent.isTransaction =
        sentEntries s.cfg (([0xAE, 0xD5, 0x80, 0xA8, 0x1F, 0xD3, 0x00, 0x40, 0x8D, 0x14, 0x20, 0x02, 0xA1, 0xC8, 0xDA,
          0x02, 0x81, 0x8F, 0xD9, 0xF1, 0xDB, 0x40, 0xA4, 0xA6, 0xAF] : List Byte).map fun b => (0x00, b)) ++
        [.busRead 0x3C] ++
        sentEntries s.cfg (([0x21, 0, 127, 0x22, 0, 3] : List Byte).map fun b => (0x00, b)) ++
        sentEntries s.cfg ((List.range 512).map fun k => (0x40, Memory.read fb k)) ∧
      t.fb = fb ∧ t.phase = .idle ∧ t.curOp = .none ∧ t.initDone = true ∧ t.seqIdx = 518 ∧ t.pollCnt = 1 ∧
      t.status = 0x0008

/-! ### The whole machine -/

/-- The invariant is kept by every step, the fault of `step` does not arise from it, and every instruction keeps
it. -/
def Obligations.EveryStepKeepsTheInvariant : Prop :=
  (∀ s t : State, s.Inv → step s = .next t → t.Inv) ∧
  (∀ s : State, s.Inv → ∃ t, step s = .next t) ∧
  ∀ (i : Instr) (s t : State), s.Inv → exec i s = .next t → t.Inv

/-- R24: a recorded fault is never overwritten or cleared except by reset. -/
def Obligations.OnlyResetClearsAFault : Prop :=
  ∀ (s t : State), s.Inv → s.fault ≠ .none → step s = .next t → t.fault ≠ s.fault → s.turns.head? = some .reset

/-- R22: INIT_DONE is set only where INIT completes with OK, its DONE sent, and cleared only by reset. -/
def Obligations.InitDoneRisesOnlyWhenInitCompletes : Prop :=
  ∀ s t : State, step s = .next t →
    (s.initDone = false → t.initDone = true → s.phase = .emit ∧ s.curOp = .init ∧
      s.seqIdx.toNat + 1 = s.emissionList.length ∧ t.trace.getLast? = some (.done .init .ok)) ∧
    (s.initDone = true → t.initDone = false → s.turns.head? = some .reset)

/-- R16: only CLEAR, SETPIXEL, DRAWLINE and FBWRITE, on the host's turn, and reset change the framebuffer; no bus
transaction writes it. -/
def Obligations.OnlyItsWritersChangeTheFramebuffer : Prop :=
  (∀ s t : State, step s = .next t → t.fb ≠ s.fb →
    s.turns.head? = some .reset ∨ s.turns.head? = some .host ∧ s.attends ∧
      ∃ w ws i, s.requests = w :: ws ∧ decodeRequest w = .ok i ∧ writesFb i = true) ∧
  ∀ (i : Instr) (s t : State), exec i s = .next t → writesFb i = false → t.fb = s.fb

/-- R137, R158: a step emits at most one bus transaction, and what has been sent stays sent. -/
def Obligations.AtMostOneTransactionAStep : Prop :=
  ∀ s t : State, step s = .next t → ∃ events, t.trace = s.trace ++ events ∧
    (events.filter PortEvent.isTransaction).length ≤ 1

/-- R135: DONE is sent exactly when the operation in flight ends, carrying its code and the result that LAST_ERR
then holds. -/
def Obligations.DoneExactlyWhenTheOperationEnds : Prop :=
  ∀ s t : State, s.Inv → step s = .next t → s.turns.head? ≠ some .reset →
    ∃ events, t.trace = s.trace ++ events ∧
      (∀ op r, PortEvent.done op r ∈ events → op = s.curOp ∧ r = t.lastErr ∧ op ≠ .none) ∧
      ((∃ op r, PortEvent.done op r ∈ events) ↔ s.curOp ≠ .none ∧ t.curOp = .none)

/-- R27: the fields of the STATUS port, with the codes that R17, R18, R23 and R24 give their values. -/
def Obligations.StatusPortFields : Prop :=
  (∀ s : State, s.status.extractLsb' 0 3 = s.phase.code ∧ s.status.extractLsb' 3 1 = BitVec.ofBool s.initDone ∧
    s.status.extractLsb' 4 2 = s.lastErr.code ∧ s.status.extractLsb' 6 3 = s.fault.code ∧
    s.status.extractLsb' 9 3 = s.curOp.code ∧ s.status.extractLsb' 12 4 = 0) ∧
  (Phase.idle.code = 0 ∧ Phase.pollReq.code = 1 ∧ Phase.pollWait.code = 2 ∧ Phase.emit.code = 3 ∧
    Phase.halted.code = 4) ∧
  (Op.none.code = 0 ∧ Op.init.code = 1 ∧ Op.push.code = 2 ∧ Op.contrast.code = 3 ∧ Op.invert.code = 4 ∧
    Op.scroll.code = 5 ∧ Op.stopScroll.code = 6) ∧
  (Result.ok.code = 0 ∧ Result.timeout.code = 1 ∧ Result.transport.code = 2) ∧
  FaultCode.none.code = 0 ∧ FaultCode.illegalRequest.code = 1 ∧ FaultCode.busOverlap.code = 2 ∧
    FaultCode.notInitialized.code = 3 ∧ FaultCode.reinit.code = 4

/-- R41, R61, R102: what the framebuffer holds steers nothing: two states that differ only in it take the same step
and differ afterwards only in it and in the bytes sent. -/
def Obligations.FramebufferSteersNothing : Prop :=
  ∀ s t s' : State, s.sameButFramebuffer t → step s = .next s' → ∃ t', step t = .next t' ∧ s'.sameButFramebuffer t'

/-! ### Pseudo-operations -/

/-- R72: DRAWBITMAP sets every pixel that has an entry to its colour, drops the entries past the panel, and keeps
every pixel without one. -/
def Obligations.BitmapPaintsEveryPixel : Prop :=
  ∀ (s : State) (pixels : List Color), s.cfg.wf = true → Memory.wf s.cfg.fbLen s.fb = true → s.attends →
    ∃ t, execAll (bitmapRequests s.cfg pixels) s = .next t ∧
      ∀ c r : Nat, c < s.cfg.width → r < s.cfg.height →
        pixelAt s.cfg t.fb c r = (match pixels[r * s.cfg.width + c]? with
          | some color => color == .on
          | none => pixelAt s.cfg s.fb c r)

/-- R66, R67: LOADFB replaces the whole buffer, is refused for any other length, and ASBYTES answers the buffer in
index order. -/
def Obligations.LoadedBytesReadBack : Prop :=
  (∀ (cfg : Config) (bytes : List Byte), bytes.length ≠ cfg.fbLen → loadAllRequests cfg bytes = none) ∧
  ∀ (s : State) (bytes : List Byte), Memory.wf s.cfg.fbLen s.fb = true → s.attends → bytes.length = s.cfg.fbLen →
    ∃ is t u, loadAllRequests s.cfg bytes = some is ∧ execAll is s = .next t ∧
      (∀ k b, bytes[k]? = some b → Memory.read t.fb k = b) ∧
      execAll (readAllRequests s.cfg) t = .next u ∧ u.fb = t.fb ∧
      u.trace = t.trace ++ bytes.map fun b => .response (.rdata b)
end

