-- ==== Sys2Proof/Laws/Decode.lean ====
section
/-! SUPPORT. The fields of a request word: cutting and putting together are inverse, and what the operand helpers
undo. -/

namespace Sys2Proof

/-- The fields of a word put together are those it was put together from. -/
@[simp] theorem hrwFields_hrwOfFields (x : HrwFields) : hrwFields (hrwOfFields x) = x := by
  obtain ⟨op, a, b, c, d, rsv, f⟩ := x
  simp only [hrwFields, hrwOfFields, HrwFields.mk.injEq]
  refine ⟨?_, ?_, ?_, ?_, ?_, ?_, ?_⟩ <;>
  · apply BitVec.eq_of_getLsbD_eq
    intro i hi
    simp only [BitVec.getLsbD_extractLsb', BitVec.getLsbD_append, hi, decide_true, Bool.true_and]
    repeat' split
    all_goals first
      | omega
      | (congr 1; omega)

/-- A word is put together from its fields. -/
@[simp] theorem hrwOfFields_hrwFields (w : Hrw) : hrwOfFields (hrwFields w) = w := by
  apply BitVec.eq_of_getLsbD_eq
  intro i hi
  simp only [hrwFields, hrwOfFields, BitVec.getLsbD_append, BitVec.getLsbD_extractLsb']
  repeat' split
  all_goals (rw [decide_eq_true (by omega), Bool.true_and]; congr 1; omega)

/-- A coordinate survives its field. -/
@[simp] theorem coordOfField_fieldOfCoord {v : Int} (h : fitsCoord v = true) : coordOfField (fieldOfCoord v) = v := by
  simp only [fitsCoord, decide_eq_true_eq] at h
  simp only [coordOfField, fieldOfCoord, BitVec.toInt_ofInt]
  exact Int.bmod_eq_of_le (by omega) (by omega)

/-- A field survives its coordinate. -/
@[simp] theorem fieldOfCoord_coordOfField (v : BitVec 12) : fieldOfCoord (coordOfField v) = v := by
  simp [coordOfField, fieldOfCoord]

/-- Every field holds a coordinate of the range. -/
theorem fitsCoord_coordOfField (v : BitVec 12) : fitsCoord (coordOfField v) = true := by
  have h1 := BitVec.toInt_lt (x := v)
  have h2 := BitVec.le_toInt (x := v)
  norm_num at h1 h2
  exact decide_eq_true ⟨h2, by change v.toInt ≤ 2047; omega⟩

@[simp] theorem colorOfFlag_flagOfColor (c : Color) : colorOfFlag (flagOfColor c) = c := by cases c <;> rfl

@[simp] theorem flagOfColor_colorOfFlag (f : BitVec 1) : flagOfColor (colorOfFlag f) = f := by
  revert f; decide

@[simp] theorem lowByte_setWidth (b : Byte) : lowByte (b.setWidth 12) = b := by
  apply BitVec.eq_of_getLsbD_eq
  intro i hi
  simp [lowByte, hi, show i < 12 by omega]

@[simp] theorem highNibble_setWidth (b : Byte) : highNibble (b.setWidth 12) = 0 := by
  apply BitVec.eq_of_getLsbD_eq
  intro i hi
  simp [highNibble]

/-- A field whose high nibble is 0 is its low byte. -/
theorem setWidth_lowByte {v : BitVec 12} (h : highNibble v = 0) : (lowByte v).setWidth 12 = v := by
  apply BitVec.eq_of_getLsbD_eq
  intro i hi
  by_cases h8 : i < 8
  · simp [lowByte, hi, h8]
  · have := congrArg (fun z => z.getLsbD (i - 8)) h
    simp [highNibble, show i - 8 < 4 by omega, show 8 + (i - 8) = i by omega] at this
    simp [lowByte, h8, this]

/-- Reading a request that the encoder made from its fields. -/
theorem decode_request (op : BitVec 4) (a b c d : BitVec 12) (f : BitVec 1) :
    decode (request op a b c d f) = decodeFields { op := op, a := a, b := b, c := c, d := d, rsv := 0, f := f } := by
  simp [decode, request, decodeRequest]

end Sys2Proof
end

