-- ==== Sys2Proof/Laws/Memory.lean ====
section
/-! SUPPORT. The laws of the framebuffer list: reading after writing, and that every operation keeps the canonical
form. -/

namespace Sys2Proof.Machine

/-- Below its first cell a canonical memory reads 0x00. -/
theorem Memory.read_below {length low a : Nat} {m : Memory} (h : Memory.wfFrom length low m = true) (ha : a < low) :
    Memory.read m a = 0 := by
  cases m with
  | nil => rfl
  | cons cell rest =>
    obtain ⟨b, w⟩ := cell
    simp only [Memory.wfFrom, Bool.and_eq_true, decide_eq_true_eq] at h
    simp [Memory.read, show a < b by omega]

/-- Weakening the lower bound. -/
theorem Memory.wfFrom_mono {length low low' : Nat} {m : Memory} (h : Memory.wfFrom length low m = true)
    (hl : low' ≤ low) : Memory.wfFrom length low' m = true := by
  cases m with
  | nil => rfl
  | cons cell rest =>
    obtain ⟨b, w⟩ := cell
    simp only [Memory.wfFrom, Bool.and_eq_true, decide_eq_true_eq] at h ⊢
    exact ⟨⟨by omega, h.1.2.1, h.1.2.2⟩, h.2⟩

/-- A write inside the bounds keeps the canonical form from a lower bound. -/
theorem Memory.write_wfFrom {length low a : Nat} {m : Memory} (v : Byte) (h : Memory.wfFrom length low m = true)
    (hl : low ≤ a) (ha : a < length) : Memory.wfFrom length low (Memory.write m a v) = true := by
  induction m generalizing low with
  | nil =>
    simp only [Memory.write]
    split
    · rfl
    · rename_i hv
      simpa [Memory.wfFrom] using ⟨hl, ha, hv⟩
  | cons cell rest ih =>
    obtain ⟨b, w⟩ := cell
    have h' := h
    simp only [Memory.wfFrom, Bool.and_eq_true, decide_eq_true_eq] at h
    obtain ⟨⟨h1, h2, h3⟩, h4⟩ := h
    simp only [Memory.write]
    split
    · rename_i hab
      split
      · exact h'
      · rename_i hv
        simp only [Memory.wfFrom, Bool.and_eq_true, decide_eq_true_eq]
        exact ⟨⟨hl, ha, hv⟩, ⟨by omega, h2, h3⟩, h4⟩
    · split
      · rename_i hab hv
        subst hv
        split
        · exact Memory.wfFrom_mono h4 (by omega)
        · rename_i hv
          simp only [Memory.wfFrom, Bool.and_eq_true, decide_eq_true_eq]
          exact ⟨⟨hl, ha, hv⟩, h4⟩
      · simp only [Memory.wfFrom, Bool.and_eq_true, decide_eq_true_eq]
        exact ⟨⟨h1, h2, h3⟩, ih h4 (by omega)⟩

/-- A write inside the framebuffer keeps the canonical form. -/
theorem Memory.write_wf {length a : Nat} {m : Memory} (v : Byte) (h : Memory.wf length m = true) (ha : a < length) :
    Memory.wf length (Memory.write m a v) = true := Memory.write_wfFrom v h (Nat.zero_le a) ha

/-- What a read gives after a write, from a lower bound. -/
theorem Memory.read_write_from {length low a : Nat} {m : Memory} (v : Byte) (b : Nat)
    (h : Memory.wfFrom length low m = true) :
    Memory.read (Memory.write m a v) b = if b = a then v else Memory.read m b := by
  induction m generalizing low with
  | nil =>
    simp only [Memory.write]
    split <;> simp only [Memory.read] <;> split_ifs <;> simp_all
  | cons cell rest ih =>
    obtain ⟨k, w⟩ := cell
    simp only [Memory.wfFrom, Bool.and_eq_true, decide_eq_true_eq] at h
    obtain ⟨-, h4⟩ := h
    simp only [Memory.write]
    by_cases hak : a < k
    · simp only [hak, if_true]
      split
      · rename_i hv
        by_cases hb : b = a
        · simp [hb, Memory.read, hak, hv]
        · simp [hb]
      · by_cases hb : b = a
        · subst hb; simp [Memory.read]
        · by_cases hba : b < a
          · simp [Memory.read, hba, hb, show b < k by omega]
          · conv_lhs => unfold Memory.read
            simp [hba, hb]
    · simp only [hak, if_false]
      by_cases hk : a = k
      · subst hk
        simp only [if_true]
        split
        · rename_i hv
          by_cases hb : b = a
          · subst hb
            simp [hv, Memory.read_below h4 (Nat.lt_succ_self b)]
          · by_cases hba : b < a
            · simp [hb, Memory.read, hba, Memory.read_below h4 (show b < a + 1 by omega)]
            · simp [hb, Memory.read, hba]
        · by_cases hb : b = a
          · subst hb; simp [Memory.read]
          · simp [Memory.read, hb]
      · simp only [hk, if_false]
        have := ih h4
        by_cases hbk : b < k
        · simp [Memory.read, hbk, show b ≠ a by omega]
        · by_cases hbk' : b = k
          · subst hbk'; simp [Memory.read, show b ≠ a by omega]
          · simp [Memory.read, hbk, hbk', this]

/-- A byte reads as written, and every other byte as before. -/
theorem Memory.read_write {length a : Nat} {m : Memory} (v : Byte) (b : Nat) (h : Memory.wf length m = true) :
    Memory.read (Memory.write m a v) b = if b = a then v else Memory.read m b := Memory.read_write_from v b h

/-- Two canonical memories that read the same are the same list. -/
theorem Memory.eq_of_read {length low : Nat} {m m' : Memory} (h : Memory.wfFrom length low m = true)
    (h' : Memory.wfFrom length low m' = true) (hr : ∀ a, Memory.read m a = Memory.read m' a) : m = m' := by
  induction m generalizing low m' with
  | nil =>
    cases m' with
    | nil => rfl
    | cons cell rest =>
      obtain ⟨b, w⟩ := cell
      simp only [Memory.wfFrom, Bool.and_eq_true, decide_eq_true_eq] at h'
      have := hr b
      simp [Memory.read] at this
      exact absurd this.symm h'.1.2.2
  | cons cell rest ih =>
    obtain ⟨b, w⟩ := cell
    simp only [Memory.wfFrom, Bool.and_eq_true, decide_eq_true_eq] at h
    cases m' with
    | nil =>
      have := hr b
      simp [Memory.read] at this
      exact absurd this h.1.2.2
    | cons cell' rest' =>
      obtain ⟨b', w'⟩ := cell'
      simp only [Memory.wfFrom, Bool.and_eq_true, decide_eq_true_eq] at h'
      have hbb : b = b' := by
        rcases Nat.lt_trichotomy b b' with hlt | heq | hgt
        · have := hr b
          simp [Memory.read, hlt] at this
          exact absurd this h.1.2.2
        · exact heq
        · have := hr b'
          simp [Memory.read, hgt] at this
          exact absurd this.symm h'.1.2.2
      subst hbb
      have hw := hr b
      simp [Memory.read] at hw
      subst hw
      congr 1
      refine ih h.2 h'.2 fun a => ?_
      by_cases hab : a ≤ b
      · rw [Memory.read_below h.2 (by omega), Memory.read_below h'.2 (by omega)]
      · have := hr a
        simpa [Memory.read, show ¬ a < b by omega, show a ≠ b by omega] using this

/-- The index and mask that the mapper gives lie in the framebuffer of an admitted instance. -/
theorem locate_inside {cfg : Config} {x y : Int} {i : Nat} {m : Byte} (hc : cfg.wf = true)
    (h : locate cfg x y = some (i, m)) : i < cfg.fbLen := by
  simp only [Config.wf, decide_eq_true_eq] at hc
  unfold locate at h
  split at h
  · rename_i hp
    simp only [onPanel, decide_eq_true_eq] at hp
    simp only [Option.some.injEq, Prod.mk.injEq] at h
    obtain ⟨hi, -⟩ := h
    rw [← hi, indexOf, pageOf, Config.fbLen]
    have h1 : (x - 1).toNat < cfg.width := by omega
    have h2 : (y - 1).toNat / 8 + 1 ≤ cfg.pages := by omega
    calc (x - 1).toNat + cfg.width * ((y - 1).toNat / 8)
        < cfg.width + cfg.width * ((y - 1).toNat / 8) := by omega
      _ = cfg.width * ((y - 1).toNat / 8 + 1) := by ring
      _ ≤ cfg.width * cfg.pages := Nat.mul_le_mul_left _ h2
  · exact absurd h (by simp)

/-- Painting keeps the canonical form. -/
theorem paint_wf {cfg : Config} {fb : Memory} (x y : Int) (color : Color) (hc : cfg.wf = true)
    (h : Memory.wf cfg.fbLen fb = true) : Memory.wf cfg.fbLen (paint cfg fb x y color) = true := by
  unfold paint
  split
  · exact h
  · rename_i i m hl
    cases color <;> exact Memory.write_wf _ h (locate_inside hc hl)

end Sys2Proof.Machine
end

