-- ==== Sys2Proof/Laws/Drawing.lean ====
section
/-! SUPPORT. The line recurrence of spec/41_drawing.md R69: where the k-th iteration stands, and when the loop
exits. -/

namespace Sys2Proof.Machine

/-- The variables at the head of iteration `k`. -/
def lineAt (l : Line) (p : LinePoint) (k : Nat) : LinePoint := (lineNext l)^[k] p

theorem lineAt_zero (l : Line) (p : LinePoint) : lineAt l p 0 = p := rfl

theorem lineAt_succ (l : Line) (p : LinePoint) (k : Nat) : lineAt l p (k + 1) = lineNext l (lineAt l p k) :=
  Function.iterate_succ_apply' (lineNext l) k p

theorem lineAt_shift (l : Line) (p : LinePoint) (k : Nat) : lineAt l p (k + 1) = lineAt l (lineNext l p) k := rfl

/-- The iteration stands on the line's endpoint. -/
def Line.endsAt (l : Line) (p : LinePoint) : Prop := p.x = l.x1 ∧ p.y = l.y1

/-- If iteration `n` is the first on the endpoint, the loop takes the iterations 0 to `n` and exits, whatever the
fuel beyond that. -/
theorem lineTrail_eq (l : Line) (n : Nat) (p : LinePoint) (hn : ∀ j < n, ¬ l.endsAt (lineAt l p j))
    (he : l.endsAt (lineAt l p n)) (extra : Nat) :
    lineTrail l (n + 1 + extra) p = (List.range (n + 1)).map (lineAt l p) := by
  induction n generalizing p with
  | zero =>
    rw [lineAt_zero] at he
    have he' : p.x = l.x1 ∧ p.y = l.y1 := he
    rw [show 0 + 1 + extra = extra + 1 by omega]
    simp [lineTrail, he', lineAt_zero]
  | succ n ih =>
    have h0 : ¬ (p.x = l.x1 ∧ p.y = l.y1) := hn 0 (by omega)
    rw [show n + 1 + 1 + extra = (n + 1 + extra) + 1 by omega]
    rw [lineTrail, if_neg h0,
      ih (lineNext l p) (fun j hj => by rw [← lineAt_shift]; exact hn (j + 1) (by omega))
        (by rw [← lineAt_shift]; exact he)]
    conv_rhs => rw [List.range_succ_eq_map]
    simp [List.map_map, Function.comp_def, lineAt_zero, lineAt_shift]

/-- More columns than rows: iteration `k` has moved `k` columns, and the error stays in `[0, dx)`. -/
theorem lineAt_shallow (l : Line) (p : LinePoint) (hdy : 0 ≤ l.dy) (hd : l.dy < l.dx) (h0 : 0 ≤ p.err)
    (h1 : p.err < l.dx) (k : Nat) :
    ∃ m : Int, lineAt l p k = { err := p.err - k * l.dy + m * l.dx, x := p.x + k * l.sx, y := p.y + m * l.sy } ∧
      0 ≤ (lineAt l p k).err ∧ (lineAt l p k).err < l.dx := by
  induction k with
  | zero => exact ⟨0, by simp [lineAt_zero], by simpa [lineAt_zero] using h0, by simpa [lineAt_zero] using h1⟩
  | succ k ih =>
    obtain ⟨m, hm, hlo, hhi⟩ := ih
    rw [lineAt_succ]
    generalize lineAt l p k = q at hm hlo hhi ⊢
    have hgt : q.err > -l.dx := by omega
    by_cases hlt : q.err < l.dy
    · refine ⟨m + 1, ?_, ?_, ?_⟩
      · simp only [lineNext, hgt, hlt, if_true]
        subst hm
        simp only [LinePoint.mk.injEq]
        push_cast
        refine ⟨by ring, by ring, by ring⟩
      · simp only [lineNext, hgt, hlt, if_true]; omega
      · simp only [lineNext, hgt, hlt, if_true]; omega
    · refine ⟨m, ?_, ?_, ?_⟩
      · simp only [lineNext, hgt, hlt, if_true, if_false]
        subst hm
        simp only [LinePoint.mk.injEq]
        push_cast
        refine ⟨by ring, by ring, trivial⟩
      · simp only [lineNext, hgt, hlt, if_true, if_false]; omega
      · simp only [lineNext, hgt, hlt, if_true, if_false]; omega

/-- No more columns than rows: iteration `k` has moved `k` rows, and the error stays in `(-dy, 0]`. -/
theorem lineAt_steep (l : Line) (p : LinePoint) (hdx : 0 ≤ l.dx) (hd : l.dx ≤ l.dy) (h0 : -l.dy < p.err)
    (h1 : p.err ≤ 0) (k : Nat) :
    ∃ n : Int, lineAt l p k = { err := p.err + k * l.dx - n * l.dy, x := p.x + n * l.sx, y := p.y + k * l.sy } ∧
      -l.dy < (lineAt l p k).err ∧ (lineAt l p k).err ≤ 0 := by
  induction k with
  | zero => exact ⟨0, by simp [lineAt_zero], by simpa [lineAt_zero] using h0, by simpa [lineAt_zero] using h1⟩
  | succ k ih =>
    obtain ⟨n, hn, hlo, hhi⟩ := ih
    rw [lineAt_succ]
    generalize lineAt l p k = q at hn hlo hhi ⊢
    have hlt : q.err < l.dy := by omega
    by_cases hgt : q.err > -l.dx
    · refine ⟨n + 1, ?_, ?_, ?_⟩
      · simp only [lineNext, hgt, hlt, if_true]
        subst hn
        simp only [LinePoint.mk.injEq]
        push_cast
        refine ⟨by ring, by ring, by ring⟩
      · simp only [lineNext, hgt, hlt, if_true]; omega
      · simp only [lineNext, hgt, hlt, if_true]; omega
    · refine ⟨n, ?_, ?_, ?_⟩
      · simp only [lineNext, hgt, hlt, if_true, if_false]
        subst hn
        simp only [LinePoint.mk.injEq]
        push_cast
        refine ⟨by ring, trivial, by ring⟩
      · simp only [lineNext, hgt, hlt, if_true, if_false]; omega
      · simp only [lineNext, hgt, hlt, if_true, if_false]; omega

/-- The endpoint lies `dx` columns and `dy` rows from the start, in the step directions. -/
theorem lineOf_endpoint (x0 y0 x1 y1 : Int) :
    x0 + (lineOf x0 y0 x1 y1).dx * (lineOf x0 y0 x1 y1).sx = x1 ∧
      y0 + (lineOf x0 y0 x1 y1).dy * (lineOf x0 y0 x1 y1).sy = y1 := by
  constructor
  · by_cases h : x0 < x1
    · simp only [lineOf, h, if_true]; rw [abs_of_pos (by omega)]; ring
    · simp only [lineOf, h, if_false]; rw [abs_of_nonpos (by omega)]; ring
  · by_cases h : y0 < y1
    · simp only [lineOf, h, if_true]; rw [abs_of_pos (by omega)]; ring
    · simp only [lineOf, h, if_false]; rw [abs_of_nonpos (by omega)]; ring

/-- A step direction is 1 or -1. -/
theorem lineOf_signs (x0 y0 x1 y1 : Int) :
    ((lineOf x0 y0 x1 y1).sx = 1 ∨ (lineOf x0 y0 x1 y1).sx = -1) ∧
      ((lineOf x0 y0 x1 y1).sy = 1 ∨ (lineOf x0 y0 x1 y1).sy = -1) := by
  simp only [lineOf]
  constructor <;> split <;> simp

/-- A line keeps the framebuffer's canonical form. -/
theorem drawLineOn_wf {cfg : Config} {fb : Memory} (x0 y0 x1 y1 : Int) (hc : cfg.wf = true)
    (h : Memory.wf cfg.fbLen fb = true) : Memory.wf cfg.fbLen (drawLineOn cfg fb x0 y0 x1 y1) = true := by
  unfold drawLineOn
  generalize lineIterations x0 y0 x1 y1 = ps
  induction ps generalizing fb with
  | nil => exact h
  | cons p ps ih => exact ih (paint_wf _ _ _ hc h)

end Sys2Proof.Machine
end

