-- ==== Sys2Proof/Laws/State.lean ====
section
/-! SUPPORT. What each shared update of the state does to each field, one lemma a field, so that no proof unfolds
an update. -/

namespace Sys2Proof.Machine

/-! ### withTurns -/

@[simp] theorem State.withTurns_cfg (s : State) (ts : List Turn) :
    (s.withTurns ts).cfg = s.cfg := rfl
@[simp] theorem State.withTurns_fb (s : State) (ts : List Turn) :
    (s.withTurns ts).fb = s.fb := rfl
@[simp] theorem State.withTurns_phase (s : State) (ts : List Turn) :
    (s.withTurns ts).phase = s.phase := rfl
@[simp] theorem State.withTurns_curOp (s : State) (ts : List Turn) :
    (s.withTurns ts).curOp = s.curOp := rfl
@[simp] theorem State.withTurns_seqIdx (s : State) (ts : List Turn) :
    (s.withTurns ts).seqIdx = s.seqIdx := rfl
@[simp] theorem State.withTurns_pollCnt (s : State) (ts : List Turn) :
    (s.withTurns ts).pollCnt = s.pollCnt := rfl
@[simp] theorem State.withTurns_argF (s : State) (ts : List Turn) :
    (s.withTurns ts).argF = s.argF := rfl
@[simp] theorem State.withTurns_argStart (s : State) (ts : List Turn) :
    (s.withTurns ts).argStart = s.argStart := rfl
@[simp] theorem State.withTurns_argStop (s : State) (ts : List Turn) :
    (s.withTurns ts).argStop = s.argStop := rfl
@[simp] theorem State.withTurns_initDone (s : State) (ts : List Turn) :
    (s.withTurns ts).initDone = s.initDone := rfl
@[simp] theorem State.withTurns_lastErr (s : State) (ts : List Turn) :
    (s.withTurns ts).lastErr = s.lastErr := rfl
@[simp] theorem State.withTurns_fault (s : State) (ts : List Turn) :
    (s.withTurns ts).fault = s.fault := rfl
@[simp] theorem State.withTurns_requests (s : State) (ts : List Turn) :
    (s.withTurns ts).requests = s.requests := rfl
@[simp] theorem State.withTurns_turns (s : State) (ts : List Turn) :
    (s.withTurns ts).turns = ts := rfl
@[simp] theorem State.withTurns_writeAnswers (s : State) (ts : List Turn) :
    (s.withTurns ts).writeAnswers = s.writeAnswers := rfl
@[simp] theorem State.withTurns_readAnswers (s : State) (ts : List Turn) :
    (s.withTurns ts).readAnswers = s.readAnswers := rfl
@[simp] theorem State.withTurns_trace (s : State) (ts : List Turn) :
    (s.withTurns ts).trace = s.trace := rfl
@[simp] theorem State.withTurns_emissionList (s : State) (ts : List Turn) :
    (s.withTurns ts).emissionList = s.emissionList := rfl
@[simp] theorem State.withTurns_dueEntry (s : State) (ts : List Turn) :
    (s.withTurns ts).dueEntry = s.dueEntry := rfl

/-! ### send -/

@[simp] theorem State.send_cfg (s : State) (events : List PortEvent) :
    (s.send events).cfg = s.cfg := rfl
@[simp] theorem State.send_fb (s : State) (events : List PortEvent) :
    (s.send events).fb = s.fb := rfl
@[simp] theorem State.send_phase (s : State) (events : List PortEvent) :
    (s.send events).phase = s.phase := rfl
@[simp] theorem State.send_curOp (s : State) (events : List PortEvent) :
    (s.send events).curOp = s.curOp := rfl
@[simp] theorem State.send_seqIdx (s : State) (events : List PortEvent) :
    (s.send events).seqIdx = s.seqIdx := rfl
@[simp] theorem State.send_pollCnt (s : State) (events : List PortEvent) :
    (s.send events).pollCnt = s.pollCnt := rfl
@[simp] theorem State.send_argF (s : State) (events : List PortEvent) :
    (s.send events).argF = s.argF := rfl
@[simp] theorem State.send_argStart (s : State) (events : List PortEvent) :
    (s.send events).argStart = s.argStart := rfl
@[simp] theorem State.send_argStop (s : State) (events : List PortEvent) :
    (s.send events).argStop = s.argStop := rfl
@[simp] theorem State.send_initDone (s : State) (events : List PortEvent) :
    (s.send events).initDone = s.initDone := rfl
@[simp] theorem State.send_lastErr (s : State) (events : List PortEvent) :
    (s.send events).lastErr = s.lastErr := rfl
@[simp] theorem State.send_fault (s : State) (events : List PortEvent) :
    (s.send events).fault = s.fault := rfl
@[simp] theorem State.send_requests (s : State) (events : List PortEvent) :
    (s.send events).requests = s.requests := rfl
@[simp] theorem State.send_turns (s : State) (events : List PortEvent) :
    (s.send events).turns = s.turns := rfl
@[simp] theorem State.send_writeAnswers (s : State) (events : List PortEvent) :
    (s.send events).writeAnswers = s.writeAnswers := rfl
@[simp] theorem State.send_readAnswers (s : State) (events : List PortEvent) :
    (s.send events).readAnswers = s.readAnswers := rfl
@[simp] theorem State.send_trace (s : State) (events : List PortEvent) :
    (s.send events).trace = s.trace ++ events := rfl

/-! ### takeRequest -/

@[simp] theorem State.takeRequest_cfg (s : State) :
    (s.takeRequest).cfg = s.cfg := rfl
@[simp] theorem State.takeRequest_fb (s : State) :
    (s.takeRequest).fb = s.fb := rfl
@[simp] theorem State.takeRequest_phase (s : State) :
    (s.takeRequest).phase = s.phase := rfl
@[simp] theorem State.takeRequest_curOp (s : State) :
    (s.takeRequest).curOp = s.curOp := rfl
@[simp] theorem State.takeRequest_seqIdx (s : State) :
    (s.takeRequest).seqIdx = s.seqIdx := rfl
@[simp] theorem State.takeRequest_pollCnt (s : State) :
    (s.takeRequest).pollCnt = s.pollCnt := rfl
@[simp] theorem State.takeRequest_argF (s : State) :
    (s.takeRequest).argF = s.argF := rfl
@[simp] theorem State.takeRequest_argStart (s : State) :
    (s.takeRequest).argStart = s.argStart := rfl
@[simp] theorem State.takeRequest_argStop (s : State) :
    (s.takeRequest).argStop = s.argStop := rfl
@[simp] theorem State.takeRequest_initDone (s : State) :
    (s.takeRequest).initDone = s.initDone := rfl
@[simp] theorem State.takeRequest_lastErr (s : State) :
    (s.takeRequest).lastErr = s.lastErr := rfl
@[simp] theorem State.takeRequest_fault (s : State) :
    (s.takeRequest).fault = s.fault := rfl
@[simp] theorem State.takeRequest_requests (s : State) :
    (s.takeRequest).requests = s.requests.tail := rfl
@[simp] theorem State.takeRequest_turns (s : State) :
    (s.takeRequest).turns = s.turns := rfl
@[simp] theorem State.takeRequest_writeAnswers (s : State) :
    (s.takeRequest).writeAnswers = s.writeAnswers := rfl
@[simp] theorem State.takeRequest_readAnswers (s : State) :
    (s.takeRequest).readAnswers = s.readAnswers := rfl
@[simp] theorem State.takeRequest_trace (s : State) :
    (s.takeRequest).trace = s.trace := rfl

/-! ### respond -/

@[simp] theorem State.respond_cfg (s : State) (r : Response) :
    (s.respond r).cfg = s.cfg := rfl
@[simp] theorem State.respond_fb (s : State) (r : Response) :
    (s.respond r).fb = s.fb := rfl
@[simp] theorem State.respond_phase (s : State) (r : Response) :
    (s.respond r).phase = s.phase := rfl
@[simp] theorem State.respond_curOp (s : State) (r : Response) :
    (s.respond r).curOp = s.curOp := rfl
@[simp] theorem State.respond_seqIdx (s : State) (r : Response) :
    (s.respond r).seqIdx = s.seqIdx := rfl
@[simp] theorem State.respond_pollCnt (s : State) (r : Response) :
    (s.respond r).pollCnt = s.pollCnt := rfl
@[simp] theorem State.respond_argF (s : State) (r : Response) :
    (s.respond r).argF = s.argF := rfl
@[simp] theorem State.respond_argStart (s : State) (r : Response) :
    (s.respond r).argStart = s.argStart := rfl
@[simp] theorem State.respond_argStop (s : State) (r : Response) :
    (s.respond r).argStop = s.argStop := rfl
@[simp] theorem State.respond_initDone (s : State) (r : Response) :
    (s.respond r).initDone = s.initDone := rfl
@[simp] theorem State.respond_lastErr (s : State) (r : Response) :
    (s.respond r).lastErr = s.lastErr := rfl
@[simp] theorem State.respond_fault (s : State) (r : Response) :
    (s.respond r).fault = s.fault := rfl
@[simp] theorem State.respond_requests (s : State) (r : Response) :
    (s.respond r).requests = s.requests.tail := rfl
@[simp] theorem State.respond_turns (s : State) (r : Response) :
    (s.respond r).turns = s.turns := rfl
@[simp] theorem State.respond_writeAnswers (s : State) (r : Response) :
    (s.respond r).writeAnswers = s.writeAnswers := rfl
@[simp] theorem State.respond_readAnswers (s : State) (r : Response) :
    (s.respond r).readAnswers = s.readAnswers := rfl
@[simp] theorem State.respond_trace (s : State) (r : Response) :
    (s.respond r).trace = s.trace ++ [.response r] := rfl

/-! ### dropOutstanding -/

@[simp] theorem State.dropOutstanding_cfg (s : State) :
    (s.dropOutstanding).cfg = s.cfg := rfl
@[simp] theorem State.dropOutstanding_fb (s : State) :
    (s.dropOutstanding).fb = s.fb := rfl
@[simp] theorem State.dropOutstanding_phase (s : State) :
    (s.dropOutstanding).phase = s.phase := rfl
@[simp] theorem State.dropOutstanding_curOp (s : State) :
    (s.dropOutstanding).curOp = s.curOp := rfl
@[simp] theorem State.dropOutstanding_seqIdx (s : State) :
    (s.dropOutstanding).seqIdx = s.seqIdx := rfl
@[simp] theorem State.dropOutstanding_pollCnt (s : State) :
    (s.dropOutstanding).pollCnt = s.pollCnt := rfl
@[simp] theorem State.dropOutstanding_argF (s : State) :
    (s.dropOutstanding).argF = s.argF := rfl
@[simp] theorem State.dropOutstanding_argStart (s : State) :
    (s.dropOutstanding).argStart = s.argStart := rfl
@[simp] theorem State.dropOutstanding_argStop (s : State) :
    (s.dropOutstanding).argStop = s.argStop := rfl
@[simp] theorem State.dropOutstanding_initDone (s : State) :
    (s.dropOutstanding).initDone = s.initDone := rfl
@[simp] theorem State.dropOutstanding_lastErr (s : State) :
    (s.dropOutstanding).lastErr = s.lastErr := rfl
@[simp] theorem State.dropOutstanding_fault (s : State) :
    (s.dropOutstanding).fault = s.fault := rfl
@[simp] theorem State.dropOutstanding_requests (s : State) :
    (s.dropOutstanding).requests = s.requests := rfl
@[simp] theorem State.dropOutstanding_turns (s : State) :
    (s.dropOutstanding).turns = s.turns := rfl
@[simp] theorem State.dropOutstanding_writeAnswers (s : State) :
    (s.dropOutstanding).writeAnswers = s.writeAnswers := rfl
@[simp] theorem State.dropOutstanding_readAnswers (s : State) :
    (s.dropOutstanding).readAnswers = if s.phase = .pollWait then s.readAnswers.tail else s.readAnswers := rfl
@[simp] theorem State.dropOutstanding_trace (s : State) :
    (s.dropOutstanding).trace = s.trace := rfl

/-! ### raise -/

@[simp] theorem State.raise_cfg (s : State) (code : FaultCode) :
    (s.raise code).cfg = s.cfg := rfl
@[simp] theorem State.raise_fb (s : State) (code : FaultCode) :
    (s.raise code).fb = s.fb := rfl
@[simp] theorem State.raise_phase (s : State) (code : FaultCode) :
    (s.raise code).phase = .halted := rfl
@[simp] theorem State.raise_curOp (s : State) (code : FaultCode) :
    (s.raise code).curOp = s.curOp := rfl
@[simp] theorem State.raise_seqIdx (s : State) (code : FaultCode) :
    (s.raise code).seqIdx = s.seqIdx := rfl
@[simp] theorem State.raise_pollCnt (s : State) (code : FaultCode) :
    (s.raise code).pollCnt = s.pollCnt := rfl
@[simp] theorem State.raise_argF (s : State) (code : FaultCode) :
    (s.raise code).argF = s.argF := rfl
@[simp] theorem State.raise_argStart (s : State) (code : FaultCode) :
    (s.raise code).argStart = s.argStart := rfl
@[simp] theorem State.raise_argStop (s : State) (code : FaultCode) :
    (s.raise code).argStop = s.argStop := rfl
@[simp] theorem State.raise_initDone (s : State) (code : FaultCode) :
    (s.raise code).initDone = s.initDone := rfl
@[simp] theorem State.raise_lastErr (s : State) (code : FaultCode) :
    (s.raise code).lastErr = s.lastErr := rfl
@[simp] theorem State.raise_fault (s : State) (code : FaultCode) :
    (s.raise code).fault = code := rfl
@[simp] theorem State.raise_requests (s : State) (code : FaultCode) :
    (s.raise code).requests = s.requests.tail := rfl
@[simp] theorem State.raise_turns (s : State) (code : FaultCode) :
    (s.raise code).turns = s.turns := rfl
@[simp] theorem State.raise_writeAnswers (s : State) (code : FaultCode) :
    (s.raise code).writeAnswers = s.writeAnswers := rfl
@[simp] theorem State.raise_readAnswers (s : State) (code : FaultCode) :
    (s.raise code).readAnswers = if s.phase = .pollWait then s.readAnswers.tail else s.readAnswers := rfl
@[simp] theorem State.raise_trace (s : State) (code : FaultCode) :
    (s.raise code).trace = s.trace := rfl

/-! ### complete -/

@[simp] theorem State.complete_cfg (s : State) (result : Result) :
    (s.complete result).cfg = s.cfg := rfl
@[simp] theorem State.complete_fb (s : State) (result : Result) :
    (s.complete result).fb = s.fb := rfl
@[simp] theorem State.complete_phase (s : State) (result : Result) :
    (s.complete result).phase = .idle := rfl
@[simp] theorem State.complete_curOp (s : State) (result : Result) :
    (s.complete result).curOp = .none := rfl
@[simp] theorem State.complete_seqIdx (s : State) (result : Result) :
    (s.complete result).seqIdx = s.seqIdx := rfl
@[simp] theorem State.complete_pollCnt (s : State) (result : Result) :
    (s.complete result).pollCnt = s.pollCnt := rfl
@[simp] theorem State.complete_argF (s : State) (result : Result) :
    (s.complete result).argF = s.argF := rfl
@[simp] theorem State.complete_argStart (s : State) (result : Result) :
    (s.complete result).argStart = s.argStart := rfl
@[simp] theorem State.complete_argStop (s : State) (result : Result) :
    (s.complete result).argStop = s.argStop := rfl
@[simp] theorem State.complete_initDone (s : State) (result : Result) :
    (s.complete result).initDone = (s.initDone || (s.curOp == .init && result == .ok)) := rfl
@[simp] theorem State.complete_lastErr (s : State) (result : Result) :
    (s.complete result).lastErr = result := rfl
@[simp] theorem State.complete_fault (s : State) (result : Result) :
    (s.complete result).fault = s.fault := rfl
@[simp] theorem State.complete_requests (s : State) (result : Result) :
    (s.complete result).requests = s.requests := rfl
@[simp] theorem State.complete_turns (s : State) (result : Result) :
    (s.complete result).turns = s.turns := rfl
@[simp] theorem State.complete_writeAnswers (s : State) (result : Result) :
    (s.complete result).writeAnswers = s.writeAnswers := rfl
@[simp] theorem State.complete_readAnswers (s : State) (result : Result) :
    (s.complete result).readAnswers = s.readAnswers := rfl
@[simp] theorem State.complete_trace (s : State) (result : Result) :
    (s.complete result).trace = s.trace ++ [.done s.curOp result] := rfl

/-! ### requestStatus -/

@[simp] theorem State.requestStatus_cfg (s : State) :
    (s.requestStatus).cfg = s.cfg := rfl
@[simp] theorem State.requestStatus_fb (s : State) :
    (s.requestStatus).fb = s.fb := rfl
@[simp] theorem State.requestStatus_phase (s : State) :
    (s.requestStatus).phase = .pollWait := rfl
@[simp] theorem State.requestStatus_curOp (s : State) :
    (s.requestStatus).curOp = s.curOp := rfl
@[simp] theorem State.requestStatus_seqIdx (s : State) :
    (s.requestStatus).seqIdx = s.seqIdx := rfl
@[simp] theorem State.requestStatus_pollCnt (s : State) :
    (s.requestStatus).pollCnt = s.pollCnt + 1 := rfl
@[simp] theorem State.requestStatus_argF (s : State) :
    (s.requestStatus).argF = s.argF := rfl
@[simp] theorem State.requestStatus_argStart (s : State) :
    (s.requestStatus).argStart = s.argStart := rfl
@[simp] theorem State.requestStatus_argStop (s : State) :
    (s.requestStatus).argStop = s.argStop := rfl
@[simp] theorem State.requestStatus_initDone (s : State) :
    (s.requestStatus).initDone = s.initDone := rfl
@[simp] theorem State.requestStatus_lastErr (s : State) :
    (s.requestStatus).lastErr = s.lastErr := rfl
@[simp] theorem State.requestStatus_fault (s : State) :
    (s.requestStatus).fault = s.fault := rfl
@[simp] theorem State.requestStatus_requests (s : State) :
    (s.requestStatus).requests = s.requests := rfl
@[simp] theorem State.requestStatus_turns (s : State) :
    (s.requestStatus).turns = s.turns := rfl
@[simp] theorem State.requestStatus_writeAnswers (s : State) :
    (s.requestStatus).writeAnswers = s.writeAnswers := rfl
@[simp] theorem State.requestStatus_readAnswers (s : State) :
    (s.requestStatus).readAnswers = s.readAnswers := rfl
@[simp] theorem State.requestStatus_trace (s : State) :
    (s.requestStatus).trace = s.trace ++ [.busRead s.cfg.busAddr] := rfl

/-! ### applyReset -/

@[simp] theorem State.applyReset_cfg (s : State) :
    (s.applyReset).cfg = s.cfg := rfl
@[simp] theorem State.applyReset_fb (s : State) :
    (s.applyReset).fb = [] := rfl
@[simp] theorem State.applyReset_phase (s : State) :
    (s.applyReset).phase = .idle := rfl
@[simp] theorem State.applyReset_curOp (s : State) :
    (s.applyReset).curOp = .none := rfl
@[simp] theorem State.applyReset_seqIdx (s : State) :
    (s.applyReset).seqIdx = 0 := rfl
@[simp] theorem State.applyReset_pollCnt (s : State) :
    (s.applyReset).pollCnt = 0 := rfl
@[simp] theorem State.applyReset_argF (s : State) :
    (s.applyReset).argF = false := rfl
@[simp] theorem State.applyReset_argStart (s : State) :
    (s.applyReset).argStart = 0 := rfl
@[simp] theorem State.applyReset_argStop (s : State) :
    (s.applyReset).argStop = 0 := rfl
@[simp] theorem State.applyReset_initDone (s : State) :
    (s.applyReset).initDone = false := rfl
@[simp] theorem State.applyReset_lastErr (s : State) :
    (s.applyReset).lastErr = .ok := rfl
@[simp] theorem State.applyReset_fault (s : State) :
    (s.applyReset).fault = .none := rfl
@[simp] theorem State.applyReset_requests (s : State) :
    (s.applyReset).requests = s.requests := rfl
@[simp] theorem State.applyReset_turns (s : State) :
    (s.applyReset).turns = s.turns := rfl
@[simp] theorem State.applyReset_writeAnswers (s : State) :
    (s.applyReset).writeAnswers = s.writeAnswers := rfl
@[simp] theorem State.applyReset_readAnswers (s : State) :
    (s.applyReset).readAnswers = if s.phase = .pollWait then s.readAnswers.tail else s.readAnswers := rfl
@[simp] theorem State.applyReset_trace (s : State) :
    (s.applyReset).trace = s.trace := rfl

end Sys2Proof.Machine
end

