-- ==== Sys2Proof/Laws/Ops.lean ====
section
/-! SUPPORT. What each shared operation can do, said once: attending to a word, accepting a bus request, the answer
to a status read, and a turn of an agent. -/

namespace Sys2Proof.Machine

/-! ### Attending to a word -/

/-- Where a word is attended to, its effect happens. -/
theorem State.attend_of_attends {s : State} (effect : State → State) (h : s.attends) : s.attend effect = effect s := by
  rcases h with h | h | h <;> simp [State.attend, h]

/-- In EMIT a word is held. -/
theorem State.attend_emit {s : State} (effect : State → State) (h : s.phase = .emit) : s.attend effect = s := by
  simp [State.attend, h]

/-- In HALTED a word is never accepted. -/
theorem State.attend_halted {s : State} (effect : State → State) (h : s.phase = .halted) : s.attend effect = s := by
  simp [State.attend, h]

/-- All that attending to a word can do. -/
theorem State.attend_cases (s : State) (effect : State → State) :
    s.attends ∧ s.attend effect = effect s ∨
      (s.phase = .emit ∨ s.phase = .halted) ∧ s.attend effect = s := by
  cases h : s.phase <;> simp [State.attend, State.attends, h]

/-- A recorded fault changes what the rule says. -/
theorem State.raise_faulted (s : State) (code : FaultCode) : s.faulted (s.raise code) code := rfl

/-! ### Bus requests -/

/-- All that a bus request which is attended to can do: one of its three faults, or the start of its operation. -/
theorem State.acceptBus_cases (s : State) (op : Op) (latch : State → State) :
    (s.phase = .pollReq ∨ s.phase = .pollWait) ∧ s.acceptBus op latch = s.raise .busOverlap ∨
    ¬ (s.phase = .pollReq ∨ s.phase = .pollWait) ∧ op = .init ∧ s.initDone = true ∧
      s.acceptBus op latch = s.raise .reinit ∨
    ¬ (s.phase = .pollReq ∨ s.phase = .pollWait) ∧ op ≠ .init ∧ s.initDone = false ∧
      s.acceptBus op latch = s.raise .notInitialized ∨
    ¬ (s.phase = .pollReq ∨ s.phase = .pollWait) ∧ (op = .init ↔ s.initDone = false) ∧
      s.acceptBus op latch = s.startOp op latch := by
  unfold State.acceptBus State.busFault
  by_cases hp : s.phase = .pollReq ∨ s.phase = .pollWait
  · simp [hp]
  · by_cases ho : op = .init <;> cases hi : s.initDone <;> simp [hp, ho]

/-- A bus request changes nothing but the fields of its start or of its fault: the framebuffer, INIT_DONE and the
configuration stay. -/
theorem State.acceptBus_keeps (s : State) (op : Op) {latch : State → State}
    (hl : ∀ t, ∃ f a b, latch t = { t with argF := f, argStart := a, argStop := b }) :
    (s.acceptBus op latch).cfg = s.cfg ∧ (s.acceptBus op latch).fb = s.fb ∧
      (s.acceptBus op latch).initDone = s.initDone ∧ (s.acceptBus op latch).turns = s.turns ∧
      (s.acceptBus op latch).writeAnswers = s.writeAnswers := by
  obtain ⟨f, a, b, h⟩ := hl { s with curOp := op, lastErr := .ok }
  rcases s.acceptBus_cases op latch with ⟨_, hc⟩ | ⟨_, _, _, hc⟩ | ⟨_, _, _, hc⟩ | ⟨_, _, hc⟩ <;> rw [hc]
  · simp
  · simp
  · simp
  · unfold State.startOp
    rw [h]
    simp only
    split <;> simp

/-! ### The status read -/

/-- All that the answer to a status read can do (R112). -/
theorem State.answerStatus_cases (s : State) (answer : ReadAnswer) :
    (∃ r, r ≠ .ok ∧ s.answerStatus answer = { s with
      readAnswers := s.readAnswers.tail, lastErr := r, curOp := .none, phase := .idle,
      trace := s.trace ++ [.done s.curOp r] }) ∨
    s.answerStatus answer = { s with readAnswers := s.readAnswers.tail, phase := .pollReq } ∧
      (∀ cap, s.cfg.pollCap = some cap → s.pollCnt < cap) ∨
    s.answerStatus answer = { s with readAnswers := s.readAnswers.tail, seqIdx := 0, phase := .emit } := by
  unfold State.answerStatus
  cases answer with
  | err => exact .inl ⟨.transport, by simp, by simp [State.complete, State.send]⟩
  | ok status =>
    by_cases hb : busy s.cfg.busyMode status = true
    · by_cases hc : s.capReached = true
      · refine .inl ⟨.timeout, by simp, ?_⟩
        have hc' : ({ s with readAnswers := s.readAnswers.tail } : State).capReached = true := hc
        simp [hb, hc', State.complete, State.send]
      · refine .inr (.inl ⟨?_, fun cap h => ?_⟩)
        · have hc' : ({ s with readAnswers := s.readAnswers.tail } : State).capReached = false := by
            simpa [State.capReached] using hc
          simp [hb, hc']
        · simpa [State.capReached, h] using hc
    · exact .inr (.inr (by simp [hb]))

/-! ### Turns -/

/-- All that a step can do: nothing without a turn, or the turn of the agent at the head. -/
theorem step_cases (s : State) :
    s.cfg.wf = false ∧ step s = .refused .illegalParameters ∨
    s.cfg.wf = true ∧ s.turns = [] ∧ step s = .next s ∨
    s.cfg.wf = true ∧ ∃ turn ts, s.turns = turn :: ts ∧ step s = (s.withTurns ts).takeTurn turn := by
  unfold step
  cases hw : s.cfg.wf
  · simp
  · cases ht : s.turns with
    | nil => simp
    | cons turn ts => simp

/-- A step with a turn to take. -/
theorem step_of_turn {s : State} {turn : Turn} {ts : List Turn} (hw : s.cfg.wf = true) (ht : s.turns = turn :: ts) :
    step s = (s.withTurns ts).takeTurn turn := by
  simp [step, hw, ht]

/-- All that the host's turn can do. -/
theorem State.hostTurn_cases (s : State) :
    s.requests = [] ∧ s.hostTurn = .next s ∨
    (∃ w ws e, s.requests = w :: ws ∧ decodeRequest w = .error e ∧
      s.hostTurn = .next (s.attend fun t => t.raise .illegalRequest)) ∨
    ∃ w ws i, s.requests = w :: ws ∧ decodeRequest w = .ok i ∧ s.hostTurn = exec i s := by
  unfold State.hostTurn
  cases hr : s.requests with
  | nil => simp
  | cons w ws => cases hd : decodeRequest w <;> simp [hd]

/-- A request that a word decodes to runs as an effect that is attended to. -/
theorem exec_of_decodeRequest {w : Hrw} {i : Instr} (h : decodeRequest w = .ok i) :
    ∃ effect, ∀ s, exec i s = .next (s.attend effect) := by
  unfold decodeRequest decodeFields at h
  split at h
  · cases h
  · split at h
    all_goals
      first
        | cases h
        | (unfold ifZero at h
           split at h
           · cases h
             exact ⟨_, fun _ => rfl⟩
           · cases h)

/-! ### Completion -/

/-- No operation but a successful INIT sets INIT_DONE. -/
theorem State.complete_initDone_of_ne {s : State} {result : Result} (h : s.curOp ≠ .init ∨ result ≠ .ok) :
    (s.complete result).initDone = s.initDone := by
  rcases h with h | h <;> simp [h]

end Sys2Proof.Machine
end

