-- ==== Sys2Proof/Laws/Emission.lean ====
section
/-! SUPPORT. The emission list and the bus writes of the sequencer: lengths, control bytes, one acknowledged write,
and runs of them. -/

namespace Sys2Proof.Machine

/-! ### The emission list -/

/-- The emission list depends on the configuration, the framebuffer, CUR_OP and the latches alone (R119). -/
theorem State.emissionList_congr {s t : State} (h1 : t.cfg = s.cfg) (h2 : t.fb = s.fb) (h3 : t.curOp = s.curOp)
    (h4 : t.argF = s.argF) (h5 : t.argStart = s.argStart) (h6 : t.argStop = s.argStop) :
    t.emissionList = s.emissionList := by
  simp [State.emissionList, h1, h2, h3, h4, h5, h6]

/-- The length of each emission list (R58, R119). -/
theorem State.emissionList_length (s : State) :
    s.emissionList.length = (match s.curOp with
      | .none => 0
      | .init => 25
      | .push => 6 + s.cfg.fbLen
      | .contrast => 2
      | .invert => 1
      | .scroll => (match s.cfg.scrollForm with | .ssd1306 => 8 | .minimal => 6)
      | .stopScroll => 1) := by
  unfold State.emissionList
  cases s.curOp
  case scroll => cases h : s.cfg.scrollForm <;> simp [emissionOf, cmdEntries, scrollSeq, scrollOperands, h]
  case push => simp [emissionOf, cmdEntries, dataEntries, winSeq, dataSeq]; omega
  all_goals simp [emissionOf, cmdEntries, initSeq, contrastSeq, polaritySeq, stopScrollSeq]

/-- An admitted block has at most 4096 framebuffer bytes (R7). -/
theorem Config.fbLen_le {cfg : Config} (h : cfg.wf = true) : 1 ≤ cfg.fbLen ∧ cfg.fbLen ≤ 4096 := by
  simp only [Config.wf, decide_eq_true_eq] at h
  unfold Config.fbLen
  constructor
  · nlinarith [h.1, h.2.2.2.1]
  · calc cfg.width * cfg.pages ≤ 256 * 16 := Nat.mul_le_mul h.2.1 h.2.2.2.2.1
      _ = 4096 := by norm_num

/-- The longest emission list fits SEQ_IDX (R19). -/
theorem State.emissionList_length_le {s : State} (h : s.cfg.wf = true) : s.emissionList.length ≤ 4102 := by
  rw [State.emissionList_length]
  have := (Config.fbLen_le h).2
  cases s.curOp <;> simp <;> try omega
  split <;> omega

/-- Of an operation in flight the list is not empty. -/
theorem State.emissionList_length_pos {s : State} (h : s.curOp ≠ .none) : 0 < s.emissionList.length := by
  rw [State.emissionList_length]
  cases hc : s.curOp <;> simp_all
  split <;> omega

/-- Every entry is a command write or a data write (R55). -/
theorem State.emissionList_control {s : State} {c b : Byte} (h : (c, b) ∈ s.emissionList) : c = 0x00 ∨ c = 0x40 := by
  unfold State.emissionList at h
  have hcmd : ∀ l : List Byte, (c, b) ∈ cmdEntries l → c = 0x00 := by
    intro l hl
    obtain ⟨_, _, h⟩ := List.mem_map.mp hl
    exact (congrArg Prod.fst h).symm
  have hdata : ∀ l : List Byte, (c, b) ∈ dataEntries l → c = 0x40 := by
    intro l hl
    obtain ⟨_, _, h⟩ := List.mem_map.mp hl
    exact (congrArg Prod.fst h).symm
  cases hc : s.curOp <;> rw [hc] at h
  case none => cases h
  case push =>
    rcases List.mem_append.mp h with h | h
    · exact .inl (hcmd _ h)
    · exact .inr (hdata _ h)
  all_goals exact .inl (hcmd _ h)

/-! ### The due entry -/

/-- The due entry is the entry of the list at SEQ_IDX, in EMIT (R120). -/
theorem State.dueEntry_eq_some {s : State} {e : Byte × Byte} :
    s.dueEntry = some e ↔ s.phase = .emit ∧ s.emissionList[s.seqIdx.toNat]? = some e := by
  unfold State.dueEntry
  split <;> simp_all

/-- A due entry is in the list. -/
theorem State.dueEntry_mem {s : State} {e : Byte × Byte} (h : s.dueEntry = some e) : e ∈ s.emissionList :=
  List.mem_of_getElem? (State.dueEntry_eq_some.mp h).2

/-- A due entry's index is inside the list. -/
theorem State.dueEntry_lt {s : State} {e : Byte × Byte} (h : s.dueEntry = some e) :
    s.seqIdx.toNat < s.emissionList.length := by
  have := (State.dueEntry_eq_some.mp h).2
  exact (List.getElem?_eq_some_iff.mp this).1

/-- The two bytes of an entry decode to a bus write (R55). -/
theorem decodeBusWrite_of_control {c : Byte} (b : Byte) (h : c = 0x00 ∨ c = 0x40) :
    ∃ i, decodeBusWrite c b = .ok i := by
  rcases h with rfl | rfl
  · exact ⟨_, rfl⟩
  · exact ⟨_, rfl⟩

/-- A decoded bus write runs as the send of its two bytes. -/
theorem exec_busWrite {c b : Byte} {i : Instr} (h : decodeBusWrite c b = .ok i) (s : State) :
    exec i s = .next (s.sendIfDue c b) := by
  unfold decodeBusWrite at h
  split at h
  · rename_i hc
    cases h
    rw [hc]; rfl
  · split at h
    · rename_i hc
      cases h
      rw [hc]; rfl
    · cases h

/-! ### One write -/

/-- SEQ_IDX does not wrap on an admitted block (R19). -/
theorem State.seqIdx_succ {s : State} (hw : s.cfg.wf = true) (h : s.seqIdx.toNat < s.emissionList.length) :
    (s.seqIdx + 1).toNat = s.seqIdx.toNat + 1 := by
  have := State.emissionList_length_le hw
  rw [BitVec.toNat_add]
  simp
  omega

/-- An acknowledged write of the due entry (R120). -/
theorem State.sendEntry_ok {s : State} {c b : Byte} {rest : List WriteAnswer} (hw : s.cfg.wf = true)
    (hd : s.dueEntry = some (c, b)) (ha : s.writeAnswers = .ok :: rest) : s.sendEntry c b = s.advanced 1 := by
  have hlt := State.dueEntry_lt hd
  have hs := State.seqIdx_succ hw hlt
  have hget := (State.dueEntry_eq_some.mp hd).2
  have htake : (s.emissionList.drop s.seqIdx.toNat).take 1 = [(c, b)] := by
    rw [List.take_one, List.head?_drop, hget]; rfl
  have hidx : s.seqIdx + 1 = BitVec.ofNat 13 (s.seqIdx.toNat + 1) := by
    rw [← hs, BitVec.ofNat_toNat, BitVec.setWidth_eq]
  unfold State.sendEntry State.advanced
  rw [ha, htake, ← hidx, ← hs]
  generalize hz : s.seqIdx + 1 = z
  by_cases hl : z.toNat = s.emissionList.length
  · rw [if_pos hl]
    dsimp only [State.send]
    rw [hz, if_pos (by simpa only [State.emissionList] using hl)]
    simp [State.complete, State.send, sentEntries]
  · rw [if_neg hl]
    dsimp only [State.send]
    rw [hz, if_neg (by simpa only [State.emissionList] using hl)]
    simp [sentEntries]

/-- A failed write of the due entry (R134). -/
theorem State.sendEntry_err {s : State} {c b : Byte} {rest : List WriteAnswer} (ha : s.writeAnswers = .err :: rest) :
    s.sendEntry c b = { s with
      writeAnswers := rest, lastErr := .transport, curOp := .none, phase := .idle,
      trace := s.trace ++ [.busWrite s.cfg.busAddr c b .err, .done s.curOp .transport] } := by
  simp [State.sendEntry, ha, State.complete, State.send]

/-- A write that has no answer yet waits (U17). -/
theorem State.sendEntry_wait {s : State} {c b : Byte} (ha : s.writeAnswers = []) : s.sendEntry c b = s := by
  simp [State.sendEntry, ha]

/-- All that a bus write can do: nothing where it is not due or has no answer yet, the next entry of the list, or
the end of the operation at ERR. -/
theorem State.sendIfDue_cases {s : State} {c b : Byte} (hw : s.cfg.wf = true) :
    s.sendIfDue c b = s ∨
    s.dueEntry = some (c, b) ∧ (∃ rest, s.writeAnswers = .ok :: rest) ∧ s.sendIfDue c b = s.advanced 1 ∨
    s.dueEntry = some (c, b) ∧ ∃ rest, s.writeAnswers = .err :: rest ∧ s.sendIfDue c b = { s with
      writeAnswers := rest, lastErr := .transport, curOp := .none, phase := .idle,
      trace := s.trace ++ [.busWrite s.cfg.busAddr c b .err, .done s.curOp .transport] } := by
  unfold State.sendIfDue
  by_cases hd : s.dueEntry = some (c, b)
  · rw [if_pos hd]
    cases ha : s.writeAnswers with
    | nil => exact .inl (State.sendEntry_wait ha)
    | cons answer rest =>
      cases answer with
      | ok => exact .inr (.inl ⟨hd, ⟨rest, rfl⟩, State.sendEntry_ok hw hd ha⟩)
      | err => exact .inr (.inr ⟨hd, rest, rfl, State.sendEntry_err ha⟩)
  · rw [if_neg hd]
    exact .inl rfl

/-- What every bus write keeps, a command keeps. -/
theorem State.sendCommandWrites_keeps {P : State → Prop} (hstep : ∀ s b, P s → P (s.sendIfDue 0x00 b))
    (payloads : List Byte) {s : State} (h : P s) : P (s.sendCommandWrites payloads) := by
  induction payloads generalizing s with
  | nil => exact h
  | cons b rest ih => exact ih (hstep s b h)

/-- What every bus write keeps, a command keeps, due or not. -/
theorem State.sendCommand_keeps {P : State → Prop} (hstep : ∀ s b, P s → P (s.sendIfDue 0x00 b)) (i : Instr)
    {s : State} (h : P s) : P (s.sendCommand i) := by
  unfold State.sendCommand
  split
  · exact State.sendCommandWrites_keeps hstep _ h
  · exact h

/-! ### Runs of acknowledged writes -/

/-- After fewer writes than are left, the operation is still in its emission, with the rest of the list due. -/
theorem State.advanced_emit {s : State} {n : Nat} (h : s.seqIdx.toNat + n < s.emissionList.length) :
    s.advanced n = { s with
      seqIdx := BitVec.ofNat 13 (s.seqIdx.toNat + n), writeAnswers := s.writeAnswers.drop n,
      trace := s.trace ++ sentEntries s.cfg ((s.emissionList.drop s.seqIdx.toNat).take n) } := by
  unfold State.advanced
  rw [if_neg (by omega)]

/-- Advancing by nothing changes nothing. -/
theorem State.advanced_zero {s : State} (h : s.seqIdx.toNat < s.emissionList.length) : s.advanced 0 = s := by
  rw [State.advanced_emit (by omega)]
  simp [sentEntries]

/-- A run of writes in two parts. -/
theorem State.advanced_add {s : State} {m n : Nat} (hw : s.cfg.wf = true)
    (h : s.seqIdx.toNat + m < s.emissionList.length) : (s.advanced m).advanced n = s.advanced (m + n) := by
  have hle := State.emissionList_length_le hw
  have hmod : (BitVec.ofNat 13 (s.seqIdx.toNat + m)).toNat = s.seqIdx.toNat + m := by
    rw [BitVec.toNat_ofNat, Nat.mod_eq_of_lt (by omega)]
  have hsplit : (s.emissionList.drop s.seqIdx.toNat).take (m + n) =
      (s.emissionList.drop s.seqIdx.toNat).take m ++ (s.emissionList.drop (s.seqIdx.toNat + m)).take n := by
    rw [List.take_add, List.drop_drop]
  rw [State.advanced_emit h]
  conv_lhs => unfold State.advanced
  conv_rhs => unfold State.advanced
  simp only [State.emissionList] at hsplit ⊢
  simp only [hmod, hsplit, List.drop_drop, Nat.add_assoc, sentEntries, List.map_append, List.append_assoc]

/-- A run of writes leaves the turns alone. -/
theorem State.advanced_withTurns (s : State) (n : Nat) (ts : List Turn) :
    (s.withTurns ts).advanced n = (s.advanced n).withTurns ts := by
  by_cases h : s.seqIdx.toNat + n = s.emissionList.length
  · unfold State.advanced
    rw [if_pos h, if_pos (by simpa using h)]
    simp [State.withTurns, State.emissionList]
  · unfold State.advanced
    rw [if_neg h, if_neg (by simpa using h)]
    simp [State.withTurns, State.emissionList]

/-! ### The sequencer's turn in EMIT -/

/-- In EMIT, inside the list, an entry is due and its bytes are a bus write. -/
theorem State.dueEntry_of_emit {s : State} (hp : s.phase = .emit) (hl : s.seqIdx.toNat < s.emissionList.length) :
    ∃ c b i, s.dueEntry = some (c, b) ∧ decodeBusWrite c b = .ok i := by
  have hd : s.dueEntry = some s.emissionList[s.seqIdx.toNat] := by
    unfold State.dueEntry
    rw [if_pos hp, List.getElem?_eq_getElem hl]
  obtain ⟨i, hi⟩ := decodeBusWrite_of_control (s.emissionList[s.seqIdx.toNat]).2
    (State.emissionList_control (s := s) (List.getElem_mem hl))
  exact ⟨_, _, i, hd, hi⟩

/-! ### Runs of steps -/

@[simp] theorem stepMany_zero (s : State) : stepMany 0 s = .next s := rfl

/-- One step, and then the rest of the run. -/
theorem stepMany_succ {s t : State} (n : Nat) (h : step s = .next t) : stepMany (n + 1) s = stepMany n t := by
  simp [stepMany, h]

/-- A run in two parts. -/
theorem stepMany_add {m n : Nat} {s t : State} (h : stepMany m s = .next t) : stepMany (m + n) s = stepMany n t := by
  induction m generalizing s with
  | zero => cases h; simp
  | succ m ih =>
    rw [show m + 1 + n = m + n + 1 by omega]
    cases hs : step s with
    | next u =>
      rw [stepMany_succ _ hs] at h ⊢
      exact ih h
    | fault r => simp [stepMany, hs] at h
    | refused r => simp [stepMany, hs] at h

/-! ### Commands in the emission list -/

/-- Where `commandAt` finds a command, the bytes of those before it fill the list up to there. -/
theorem commandAt_split {bytesOf : Instr → List Byte} {cs : List Instr} {k : Nat} {c : Instr}
    (h : commandAt bytesOf cs k = some c) : ∃ before after, cs = before ++ c :: after ∧
      (before.flatMap bytesOf).length = k := by
  induction cs generalizing k with
  | nil => cases h
  | cons d rest ih =>
    simp only [commandAt] at h
    split at h
    · cases h
      exact ⟨[], rest, rfl, by simp_all⟩
    · split at h
      · cases h
      · obtain ⟨before, after, h1, h2⟩ := ih h
        exact ⟨d :: before, after, by simp [h1], by simp [List.flatMap_cons] at h2 ⊢; omega⟩

/-- A due command is one of the operation's. -/
theorem State.dueCommand_mem {s : State} {i : Instr} (h : s.dueCommand = some i) : i ∈ s.commands := by
  obtain ⟨_, _, h1, _⟩ := commandAt_split h
  simp [h1]

/-- The emission list is the command writes of the operation's commands, and data writes after them (R73, R119). -/
theorem State.emissionList_split (s : State) :
    ∃ data, s.emissionList = cmdEntries (s.commands.flatMap s.commandBytes) ++ dataEntries data := by
  unfold State.emissionList State.commands
  cases hc : s.curOp
  case push => exact ⟨dataSeq s.cfg s.fb, rfl⟩
  case scroll =>
    refine ⟨[], ?_⟩
    cases hf : s.cfg.scrollForm <;> simp [emissionOf, scrollSeq, scrollOperands, hf, State.commandBytes, dataEntries]
  case invert =>
    refine ⟨[], ?_⟩
    cases hf : s.argF <;> simp [emissionOf, polaritySeq, State.commandBytes, dataEntries]
  all_goals
    refine ⟨[], ?_⟩
    simp [emissionOf, initSeq, contrastSeq, stopScrollSeq, State.commandBytes, dataEntries, hc]
    try rfl

/-- From a due command on, the emission list is its bytes and what follows. -/
theorem State.emissionList_of_dueCommand {s : State} {i : Instr} (h : s.dueCommand = some i) :
    ∃ rest, s.emissionList.drop s.seqIdx.toNat = cmdEntries (s.commandBytes i) ++ rest := by
  obtain ⟨before, after, h1, h2⟩ := commandAt_split h
  obtain ⟨data, h3⟩ := s.emissionList_split
  rw [h3, h1]
  refine ⟨cmdEntries (after.flatMap s.commandBytes) ++ dataEntries data, ?_⟩
  simp only [List.flatMap_append, List.flatMap_cons, cmdEntries, List.map_append, List.append_assoc]
  rw [List.drop_append_of_le_length (by simp [h2]), List.drop_of_length_le (by simp [h2])]
  rfl

/-- A command runs as the send of its bytes. -/
theorem exec_of_dueCommand {s : State} {i : Instr} (hp : s.phase = .emit) (h : s.dueCommand = some i) :
    exec i s = .next (s.sendCommandWrites (s.commandBytes i)) := by
  have hm := State.dueCommand_mem h
  have hs : s.sendCommand i = s.sendCommandWrites (s.commandBytes i) := by simp [State.sendCommand, hp, h]
  rw [← hs]
  cases i
  case setContrastLevel => rfl
  all_goals first
    | rfl
    | (exfalso
       revert hm
       unfold State.commands
       cases s.curOp <;> simp
       split <;> simp)

end Sys2Proof.Machine
end

