-- ==== Sys2Proof/Laws/PerInstr.lean ====
section
/-! SUPPORT. For every instruction, one lemma: its encoding has the width of its row of spec/opcode_table.json and
agrees with the row's match under the row's mask, whatever the operands. -/

namespace Sys2Proof.Laws.TableRow

/-- How many bits a frame has. -/
def width : Frame → Nat
  | .request _ => 64
  | .busWrite _ _ => 16
  | .statusByte _ => 8
  | .command _ => 8

/-- The bits of a frame as the opcode table numbers them. -/
def bits : Frame → BitVec 64
  | .request w => w
  | .busWrite control payload => (control ++ payload).setWidth 64
  | .statusByte status => status.setWidth 64
  | .command opcode => opcode.setWidth 64

/-- The width, the mask and the match of an instruction's row. -/
def row : Instr → Nat × BitVec 64 × BitVec 64
  | .init => (64, 0xFFFFFFFFFFFFFFFF, 0x1000000000000000)
  | .clear => (64, 0xFFFFFFFFFFFFFFFF, 0x2000000000000000)
  | .setPixel _ _ _ => (64, 0xF000000FFFFFFFFE, 0x3000000000000000)
  | .drawLine _ _ _ _ => (64, 0xF000000000000FFF, 0x4000000000000000)
  | .pushFrame => (64, 0xFFFFFFFFFFFFFFFF, 0x5000000000000000)
  | .setContrast _ => (64, 0xFFFFFFFFFFFFFFFE, 0x6000000000000000)
  | .invert _ => (64, 0xFFFFFFFFFFFFFFFE, 0x7000000000000000)
  | .scrollRight _ _ => (64, 0xFF00F00FFFFFFFFF, 0x8000000000000000)
  | .stopScroll => (64, 0xFFFFFFFFFFFFFFFF, 0x9000000000000000)
  | .fbRead _ => (64, 0xF000FFFFFFFFFFFF, 0xA000000000000000)
  | .fbWrite _ _ => (64, 0xF000F00FFFFFFFFF, 0xB000000000000000)
  | .busCmdWrite _ => (16, 0xFF00, 0x0000)
  | .busDataWrite _ => (16, 0xFF00, 0x4000)
  | .busStatusRead _ => (8, 0x00, 0x00)
  | .displayOff => (8, 0xFF, 0xAE)
  | .setDisplayClockDiv => (8, 0xFF, 0xD5)
  | .setMultiplex => (8, 0xFF, 0xA8)
  | .setDisplayOffset => (8, 0xFF, 0xD3)
  | .setStartLine _ => (8, 0xC0, 0x40)
  | .chargePump => (8, 0xFF, 0x8D)
  | .memoryMode => (8, 0xFF, 0x20)
  | .segRemap => (8, 0xFF, 0xA1)
  | .comScanDec => (8, 0xFF, 0xC8)
  | .setComPins => (8, 0xFF, 0xDA)
  | .setContrastLevel => (8, 0xFF, 0x81)
  | .setPrecharge => (8, 0xFF, 0xD9)
  | .setVcomDetect => (8, 0xFF, 0xDB)
  | .displayAllOnResume => (8, 0xFF, 0xA4)
  | .normalDisplay => (8, 0xFF, 0xA6)
  | .invertDisplay => (8, 0xFF, 0xA7)
  | .displayOn => (8, 0xFF, 0xAF)
  | .columnAddr => (8, 0xFF, 0x21)
  | .pageAddr => (8, 0xFF, 0x22)
  | .rightHorizontalScroll => (8, 0xFF, 0x26)
  | .activateScroll => (8, 0xFF, 0x2F)
  | .deactivateScroll => (8, 0xFF, 0x2E)

/-- A request word under a mask is its fields under the mask's. -/
theorem masked (op : BitVec 4) (a b c d : BitVec 12) (f : BitVec 1) (mop : BitVec 4) (ma mb mc md : BitVec 12)
    (mrsv : BitVec 11) (mflag : BitVec 1) :
    bits (request op a b c d f) &&&
        hrwOfFields { op := mop, a := ma, b := mb, c := mc, d := md, rsv := mrsv, f := mflag } =
      hrwOfFields {
        op := op &&& mop, a := a &&& ma, b := b &&& mb, c := c &&& mc, d := d &&& md, rsv := 0 &&& mrsv,
        f := f &&& mflag } := by
  change (op ++ a ++ b ++ c ++ d ++ (0 : BitVec 11) ++ f : BitVec (4 + 12 + 12 + 12 + 12 + 11 + 1)) &&&
      (mop ++ ma ++ mb ++ mc ++ md ++ mrsv ++ mflag) = _
  simp only [BitVec.and_append]
  rfl

/-- A byte has no bit in the high nibble of its field. -/
theorem byteField_masked (b : Byte) : b.setWidth 12 &&& 0xF00#12 = 0 := by
  revert b
  decide

/-- The encoding of `i` lies in its row of the opcode table. -/
def Statement (i : Instr) : Prop :=
  width (encode i) = (row i).1 ∧ bits (encode i) &&& (row i).2.1 = (row i).2.2

theorem init : Statement .init := by unfold Statement; decide
theorem clear : Statement .clear := by unfold Statement; decide
theorem setPixel (x y : Int) (color : Color) : Statement (.setPixel x y color) :=
  ⟨rfl, (masked _ _ _ _ _ _ 0xF 0x0 0x0 0xFFF 0xFFF 0x7FF 0x0).trans (by simp [hrwOfFields, row])⟩
theorem drawLine (x0 y0 x1 y1 : Int) : Statement (.drawLine x0 y0 x1 y1) :=
  ⟨rfl, (masked _ _ _ _ _ _ 0xF 0x0 0x0 0x0 0x0 0x7FF 0x1).trans (by simp [hrwOfFields, row])⟩
theorem pushFrame : Statement .pushFrame := by unfold Statement; decide
theorem setContrast (dim : Bool) : Statement (.setContrast dim) := by
  cases dim <;> unfold Statement <;> decide
theorem invert (on : Bool) : Statement (.invert on) := by
  cases on <;> unfold Statement <;> decide
theorem scrollRight (start stop : Byte) : Statement (.scrollRight start stop) :=
  ⟨rfl, (masked _ _ _ _ _ _ 0xF 0xF00 0xF00 0xFFF 0xFFF 0x7FF 0x1).trans (by simp [byteField_masked, hrwOfFields, row])⟩
theorem stopScroll : Statement .stopScroll := by unfold Statement; decide
theorem fbRead (index : Nat) : Statement (.fbRead index) :=
  ⟨rfl, (masked _ _ _ _ _ _ 0xF 0x0 0xFFF 0xFFF 0xFFF 0x7FF 0x1).trans (by simp [hrwOfFields, row])⟩
theorem fbWrite (index : Nat) (value : Byte) : Statement (.fbWrite index value) :=
  ⟨rfl, (masked _ _ _ _ _ _ 0xF 0x0 0xF00 0xFFF 0xFFF 0x7FF 0x1).trans (by simp [byteField_masked, hrwOfFields, row])⟩
theorem busCmdWrite (payload : Byte) : Statement (.busCmdWrite payload) := by
  unfold Statement
  revert payload
  decide
theorem busDataWrite (payload : Byte) : Statement (.busDataWrite payload) := by
  unfold Statement
  revert payload
  decide
theorem busStatusRead (status : Byte) : Statement (.busStatusRead status) := by
  unfold Statement
  revert status
  decide
theorem displayOff : Statement .displayOff := by unfold Statement; decide
theorem setDisplayClockDiv : Statement .setDisplayClockDiv := by unfold Statement; decide
theorem setMultiplex : Statement .setMultiplex := by unfold Statement; decide
theorem setDisplayOffset : Statement .setDisplayOffset := by unfold Statement; decide
theorem setStartLine (line : BitVec 6) : Statement (.setStartLine line) := by
  unfold Statement
  revert line
  decide
theorem chargePump : Statement .chargePump := by unfold Statement; decide
theorem memoryMode : Statement .memoryMode := by unfold Statement; decide
theorem segRemap : Statement .segRemap := by unfold Statement; decide
theorem comScanDec : Statement .comScanDec := by unfold Statement; decide
theorem setComPins : Statement .setComPins := by unfold Statement; decide
theorem setContrastLevel : Statement .setContrastLevel := by unfold Statement; decide
theorem setPrecharge : Statement .setPrecharge := by unfold Statement; decide
theorem setVcomDetect : Statement .setVcomDetect := by unfold Statement; decide
theorem displayAllOnResume : Statement .displayAllOnResume := by unfold Statement; decide
theorem normalDisplay : Statement .normalDisplay := by unfold Statement; decide
theorem invertDisplay : Statement .invertDisplay := by unfold Statement; decide
theorem displayOn : Statement .displayOn := by unfold Statement; decide
theorem columnAddr : Statement .columnAddr := by unfold Statement; decide
theorem pageAddr : Statement .pageAddr := by unfold Statement; decide
theorem rightHorizontalScroll : Statement .rightHorizontalScroll := by unfold Statement; decide
theorem activateScroll : Statement .activateScroll := by unfold Statement; decide
theorem deactivateScroll : Statement .deactivateScroll := by unfold Statement; decide

end Sys2Proof.Laws.TableRow
end

