-- ==== Sys2Proof/Tests/Slice0.lean ====
section
/-! SUPPORT. Tests and witnesses. Every expected value is taken from spec/95_test_vectors.md, from the tables of
spec/30_encoding.md, or by hand from the rule named beside it; each witness shows a concrete state and operands
that meet the hypotheses of the obligation in its name. -/

namespace Sys2Proof.Tests

open Sys2Proof.Machine

-- One theorem after the other: each thread of its own takes its stack from the memory limit.
set_option Elab.async false

/-- A property of the next state, false where there is none. -/
def after (a : Answer) (p : State → Bool) : Bool :=
  match a with
  | .next s => p s
  | .fault _ => false
  | .refused _ => false

/-- The block right after reset, initialized. -/
def ready : State := { State.reset with initDone := true }

/-- The block with a status read due. -/
def polling : State := { ready with phase := .pollReq, curOp := .push }

/-- The block with a status read outstanding, answered with `a`. -/
def waiting (a : ReadAnswer) : State := { ready with phase := .pollWait, curOp := .push, pollCnt := 1, readAnswers := [a] }

/-- The block come to entry `k` of an operation, one write to be acknowledged. -/
def sending (op : Op) (k : Nat) : State := State.reset.emitting op k

/-- The block halted by an illegal request. -/
def halted : State := { State.reset with phase := .halted, fault := .illegalRequest }

/-- The block right after reset, with one word presented and the host to move. -/
def presenting (w : Hrw) : State := State.reset.withFetchWord 64 w.toNat

/-- The framebuffer's byte. -/
def fbIs (cells : List (Nat × Byte)) (s : State) : Bool := s.fb == cells

/-! ### Well-formedness: a term that each check refuses -/

theorem test_wf_setpixel_x : (Instr.setPixel 2048 1 .on).wf = false := by decide
theorem test_wf_setpixel_y : (Instr.setPixel 1 (-2049) .on).wf = false := by decide
theorem test_wf_drawline_x0 : (Instr.drawLine (-2049) 0 0 0).wf = false := by decide
theorem test_wf_drawline_y0 : (Instr.drawLine 0 2048 0 0).wf = false := by decide
theorem test_wf_drawline_x1 : (Instr.drawLine 0 0 2048 0).wf = false := by decide
theorem test_wf_drawline_y1 : (Instr.drawLine 0 0 0 (-2049)).wf = false := by decide
theorem test_wf_fbread : (Instr.fbRead 4096).wf = false := by decide
theorem test_wf_fbwrite : (Instr.fbWrite 4096 0).wf = false := by decide
theorem test_wf_bounds : (Instr.setPixel (-2048) 2047 .off).wf = true ∧ (Instr.fbRead 4095).wf = true := by decide

/-! ### Decoding: one word for every constructor (95_test_vectors 2.1; 30_encoding R55, R56) -/

theorem test_decode_init : decodeTableWord 64 0x1000000000000000 = some .init := by decide +kernel
theorem test_decode_clear : decodeTableWord 64 0x2000000000000000 = some .clear := by decide +kernel
theorem test_decode_setpixel : decodeTableWord 64 0x3080020000000001 = some (.setPixel 128 32 .on) := by decide +kernel
theorem test_decode_setpixel_negative : decodeTableWord 64 0x3FFF005000000001 = some (.setPixel (-1) 5 .on) := by decide +kernel
theorem test_decode_setpixel_off : decodeTableWord 64 0x3004004000000000 = some (.setPixel 4 4 .off) := by decide +kernel
theorem test_decode_drawline : decodeTableWord 64 0x4FFEFFF002001000 = some (.drawLine (-2) (-1) 2 1) := by decide +kernel
theorem test_decode_pushframe : decodeTableWord 64 0x5000000000000000 = some .pushFrame := by decide +kernel
theorem test_decode_setcontrast : decodeTableWord 64 0x6000000000000001 = some (.setContrast true) := by decide +kernel
theorem test_decode_invert : decodeTableWord 64 0x7000000000000000 = some (.invert false) := by decide +kernel
theorem test_decode_scrollright : decodeTableWord 64 0x8001002000000000 = some (.scrollRight 1 2) := by decide +kernel
theorem test_decode_stopscroll : decodeTableWord 64 0x9000000000000000 = some .stopScroll := by decide +kernel
theorem test_decode_fbread : decodeTableWord 64 0xA1FF000000000000 = some (.fbRead 511) := by decide +kernel
theorem test_decode_fbwrite : decodeTableWord 64 0xB0030A5000000000 = some (.fbWrite 3 0xA5) := by decide +kernel
theorem test_decode_bus_cmd_write : decodeTableWord 16 0x00AE = some (.busCmdWrite 0xAE) := by decide +kernel
theorem test_decode_bus_data_write : decodeTableWord 16 0x405A = some (.busDataWrite 0x5A) := by decide +kernel
theorem test_decode_bus_status_read : decodeTableWord 8 0x01 = some (.busStatusRead 0x01) := by decide +kernel
theorem test_decode_displayOff : decodeTableWord 8 0xAE = some .displayOff := by decide +kernel
theorem test_decode_setDisplayClockDiv : decodeTableWord 8 0xD5 = some .setDisplayClockDiv := by decide +kernel
theorem test_decode_setMultiplex : decodeTableWord 8 0xA8 = some .setMultiplex := by decide +kernel
theorem test_decode_setDisplayOffset : decodeTableWord 8 0xD3 = some .setDisplayOffset := by decide +kernel
theorem test_decode_setStartLine : decodeTableWord 8 0x40 = some (.setStartLine 0) := by decide +kernel
theorem test_decode_chargePump : decodeTableWord 8 0x8D = some .chargePump := by decide +kernel
theorem test_decode_memoryMode : decodeTableWord 8 0x20 = some .memoryMode := by decide +kernel
theorem test_decode_segRemap : decodeTableWord 8 0xA1 = some .segRemap := by decide +kernel
theorem test_decode_comScanDec : decodeTableWord 8 0xC8 = some .comScanDec := by decide +kernel
theorem test_decode_setComPins : decodeTableWord 8 0xDA = some .setComPins := by decide +kernel
theorem test_decode_setContrastLevel : decodeTableWord 8 0x81 = some .setContrastLevel := by decide +kernel
theorem test_decode_setPrecharge : decodeTableWord 8 0xD9 = some .setPrecharge := by decide +kernel
theorem test_decode_setVcomDetect : decodeTableWord 8 0xDB = some .setVcomDetect := by decide +kernel
theorem test_decode_displayAllOnResume : decodeTableWord 8 0xA4 = some .displayAllOnResume := by decide +kernel
theorem test_decode_normalDisplay : decodeTableWord 8 0xA6 = some .normalDisplay := by decide +kernel
theorem test_decode_invertDisplay : decodeTableWord 8 0xA7 = some .invertDisplay := by decide +kernel
theorem test_decode_displayOn : decodeTableWord 8 0xAF = some .displayOn := by decide +kernel
theorem test_decode_columnAddr : decodeTableWord 8 0x21 = some .columnAddr := by decide +kernel
theorem test_decode_pageAddr : decodeTableWord 8 0x22 = some .pageAddr := by decide +kernel
theorem test_decode_rightHorizontalScroll : decodeTableWord 8 0x26 = some .rightHorizontalScroll := by decide +kernel
theorem test_decode_activateScroll : decodeTableWord 8 0x2F = some .activateScroll := by decide +kernel
theorem test_decode_deactivateScroll : decodeTableWord 8 0x2E = some .deactivateScroll := by decide +kernel
theorem test_decode_setStartLine_63 : decodeTableWord 8 0x7F = some (.setStartLine 63) := by decide +kernel

/-- A control byte other than 0x00 and 0x40 is no bus write (R55). -/
theorem test_decode_control_byte : decodeTableWord 16 0x80AE = none := by decide +kernel

/-! ### Illegal words (95_test_vectors 2.2): each halts the block with STATUS 0x0044 and no response -/

/-- The word presented from reset is not accepted, and STATUS is 0x0044 afterwards. -/
def rejected (w : Hrw) : Bool :=
  after (step (presenting w)) fun s => s.status == 0x0044 && s.trace == [] && s.fb == []

theorem test_illegal_zero : rejected 0x0000000000000000 = true := by decide +kernel
theorem test_illegal_op_c : rejected 0xC000000000000000 = true := by decide +kernel
theorem test_illegal_op_f : rejected 0xF000000000000000 = true := by decide +kernel
theorem test_illegal_rsv : rejected 0x3001001000000003 = true := by decide +kernel
theorem test_illegal_setpixel_c : rejected 0x3001001001000001 = true := by decide +kernel
theorem test_illegal_scroll_a : rejected 0x8100003000000000 = true := by decide +kernel
theorem test_illegal_init_f : rejected 0x1000000000000001 = true := by decide +kernel
theorem test_illegal_drawline_f : rejected 0x4000000007007001 = true := by decide +kernel
theorem test_illegal_fbwrite_b : rejected 0xB0031A5000000000 = true := by decide +kernel
theorem test_illegal_contrast_rsv : rejected 0x6000000000000002 = true := by decide +kernel
theorem test_illegal_invert_b : rejected 0x7000001000000001 = true := by decide +kernel
theorem test_illegal_fbread_512 : rejected 0xA200000000000000 = true := by decide +kernel

/-! ### The mapper (95_test_vectors 2.3) -/

theorem test_mapper :
    [(1, 1), (1, 8), (1, 9), (128, 1), (5, 17), (64, 20), (1, 32), (128, 32)].map
      (fun p : Int × Int => locate Config.default p.1 p.2) =
    [some (0, 0x01), some (0, 0x80), some (128, 0x01), some (127, 0x01), some (260, 0x01), some (319, 0x08),
      some (384, 0x80), some (511, 0x80)] := by decide +kernel

/-- S2: off the panel there is no bit. -/
theorem test_mapper_off_panel :
    [(0, 1), (1, 0), (129, 1), (1, 33), (-2048, 5), (2047, 2047)].map
      (fun p : Int × Int => locate Config.default p.1 p.2) = [none, none, none, none, none, none] := by
  decide +kernel

/-! ### Framebuffer requests (95_test_vectors 2.4, 2.5) -/

theorem test_setpixel_page : after (exec (.setPixel 1 9 .on) State.reset) (fbIs [(128, 0x01)]) = true := by
  decide +kernel
theorem test_setpixel_off :
    after (exec (.setPixel 1 3 .off) { State.reset with fb := [(0, 0xFF)] }) (fbIs [(0, 0xFB)]) = true := by
  decide +kernel
theorem test_clear :
    after (exec .clear { State.reset with fb := [(3, 0xA5)] }) (fun s => s.fb == [] && s.trace == [.response .ack]) =
      true := by decide +kernel
theorem test_fbread :
    after (exec (.fbRead 511) { State.reset with fb := [(511, 0x5A)] })
      (fun s => s.trace == [.response (.rdata 0x5A)]) = true := by decide +kernel
theorem test_fbread_past_end : after (exec (.fbRead 512) State.reset) (fun s => s.status == 0x0044 && s.trace == []) = true := by
  decide +kernel
theorem test_fbwrite : after (exec (.fbWrite 511 0x5A) State.reset) (fbIs [(511, 0x5A)]) = true := by decide +kernel
theorem test_fbwrite_past_end :
    after (exec (.fbWrite 4095 0x00) State.reset) (fun s => s.status == 0x0044 && s.fb == []) = true := by decide +kernel

/-! ### DRAWLINE (95_test_vectors 2.6) -/

theorem test_drawline_shallow :
    (lineIterations 0 0 4 1).map (fun p => (p.x, p.y)) = [(0, 0), (1, 0), (2, 0), (3, 1), (4, 1)] := by decide +kernel
theorem test_drawline_reversed :
    (lineIterations 4 1 0 0).map (fun p => (p.x, p.y)) = [(4, 1), (3, 1), (2, 1), (1, 0), (0, 0)] := by decide +kernel
/-- The error starts at (-5) / 2 = -2, truncated toward zero; floor would give (1, 4) for the fifth point. -/
theorem test_drawline_steep :
    (lineIterations 0 0 2 5).map (fun p => (p.x, p.y)) = [(0, 0), (0, 1), (1, 2), (1, 3), (2, 4), (2, 5)] := by
  decide +kernel
theorem test_drawline_page :
    after (exec (.drawLine 0 6 0 9) State.reset) (fbIs [(0, 0xC0), (128, 0x03)]) = true := by decide +kernel
theorem test_drawline_off_panel :
    after (exec (.drawLine 126 30 130 34) State.reset) (fbIs [(510, 0x40), (511, 0x80)]) = true := by decide +kernel
theorem test_drawline_point : after (exec (.drawLine 0 0 0 0) State.reset) (fbIs [(0, 0x01)]) = true := by
  decide +kernel

/-! ### Bus requests and their faults (95_test_vectors 2.11) -/

theorem test_init_starts :
    after (step (presenting 0x1000000000000000))
      (fun s => s.phase == .emit && s.curOp == .init && s.trace == [.response .ack] && s.requests == []) = true := by
  decide +kernel
theorem test_pushframe_starts :
    after (exec .pushFrame ready) (fun s => s.phase == .pollReq && s.curOp == .push && s.pollCnt == 0) = true := by
  decide +kernel
theorem test_setcontrast_starts :
    after (exec (.setContrast true) ready) (fun s => s.phase == .emit && s.argF && s.curOp == .contrast) = true := by
  decide +kernel
theorem test_invert_starts :
    after (exec (.invert true) ready) (fun s => s.phase == .emit && s.argF && s.curOp == .invert) = true := by
  decide +kernel
theorem test_scrollright_starts :
    after (exec (.scrollRight 1 2) ready) (fun s => s.phase == .pollReq && s.argStart == 1 && s.argStop == 2) = true := by
  decide +kernel
theorem test_stopscroll_starts :
    after (exec .stopScroll ready) (fun s => s.phase == .emit && s.curOp == .stopScroll) = true := by decide +kernel
theorem test_not_initialized :
    [Instr.pushFrame, .setContrast false, .stopScroll].map
      (fun i => after (exec i State.reset) fun s => s.status == 0x00C4 && s.trace == []) = [true, true, true] := by decide +kernel
theorem test_reinit : after (exec .init ready) (fun s => s.status == 0x010C) = true := by decide +kernel
theorem test_overlap : after (exec .stopScroll (waiting (.ok 0))) (fun s => s.status == 0x048C && s.trace == []) = true := by
  decide +kernel
theorem test_pixel_in_handshake :
    after (exec (.setPixel 2 1 .on) (waiting (.ok 0)))
      (fun s => s.fb == [(1, 0x01)] && s.phase == .pollWait && s.trace == [.response .ack]) = true := by decide +kernel

/-! ### The handshake (95_test_vectors 2.8, 2.9) -/

theorem test_busy_any_bit :
    ([0x00, 0x01, 0x40, 0x7F, 0x80, 0xFF] : List Byte).map (busy .anyBit) = [false, true, true, true, true, true] := by
  decide +kernel
theorem test_busy_bit7 :
    ([0x00, 0x01, 0x40, 0x7F, 0x80, 0xFF] : List Byte).map (busy .bit7) = [false, false, false, false, true, true] := by
  decide +kernel
theorem test_status_read_emitted :
    after (exec (.busStatusRead 0) polling)
      (fun s => s.phase == .pollWait && s.pollCnt == 1 && s.trace == [.busRead 0x3C]) = true := by decide +kernel
/-- At the third of three reads, 0x80 ends the handshake with TIMEOUT; `STATUS` is 0x0018 (program P6). -/
theorem test_status_read_timeout :
    after (exec (.busStatusRead 0x80)
        { waiting (.ok 0x80) with pollCnt := 3, cfg := { Config.default with pollCap := some 3 } })
      (fun s => s.status == 0x0018 && s.trace == [.done .push .timeout]) = true := by decide +kernel

/-! ### The sequences (95_test_vectors 2.10) -/

theorem test_init_seq :
    initSeq Config.default = [0xAE, 0xD5, 0x80, 0xA8, 0x1F, 0xD3, 0x00, 0x40, 0x8D, 0x14, 0x20, 0x02, 0xA1, 0xC8, 0xDA, 0x02,
      0x81, 0x8F, 0xD9, 0xF1, 0xDB, 0x40, 0xA4, 0xA6, 0xAF] := by decide +kernel
theorem test_win_seq_64_rows :
    winSeq (Config.ofGeometry 128 8) = [0x21, 0x00, 0x7F, 0x22, 0x00, 0x07] ∧
      (Config.ofGeometry 128 8).initOperands.mux = 0x3F := by decide +kernel
theorem test_scroll_seq : scrollSeq Config.default 1 2 = [0x26, 0x00, 0x01, 0x00, 0x02, 0x00, 0xFF, 0x2F] := by
  decide +kernel
theorem test_scroll_seq_minimal :
    scrollSeq { Config.default with scrollForm := .minimal } 0 3 = [0x26, 0x00, 0x00, 0x03, 0xFF, 0x2F] := by
  decide +kernel

/-! ### The bus transactions and the commands, each run by the step after `withFetchWord`

The bytes are those of 95_test_vectors 2.10. A command's own step sends its first byte; `exec` sends all. -/

/-- The step after placing the bits sends the one bus write. -/
def sends (nbits w : Nat) (control payload : Byte) : Bool :=
  after (step (State.reset.withFetchWord nbits w)) fun s => s.trace.head? == some (.busWrite 0x3C control payload .ok)

/-- The payloads of the command writes that an instruction sends when every write is acknowledged. -/
def payloads (i : Instr) (s : State) : List Byte :=
  match exec i { s with writeAnswers := List.replicate 8 .ok } with
  | .next t => t.trace.filterMap fun e => match e with
    | .busWrite _ 0x00 b .ok => some b
    | .busWrite _ _ _ _ | .busRead _ | .response _ | .done _ _ => none
  | .fault _ => []
  | .refused _ => []

theorem test_run_bus_cmd_write : sends 16 0x00C8 0x00 0xC8 = true := by decide +kernel
theorem test_run_bus_data_write : sends 16 0x405A 0x40 0x5A = true := by decide +kernel
theorem test_run_bus_data_write_zero : sends 16 0x4000 0x40 0x00 = true := by decide +kernel
theorem test_run_bus_status_read :
    after (step (State.reset.withFetchWord 8 0x01)) (fun s => s.phase == .pollReq && s.readAnswers == []) = true := by
  decide +kernel
theorem test_run_bus_status_ready :
    after (step (State.reset.withFetchWord 8 0x00)) (fun s => s.phase == .emit && s.seqIdx == 0) = true := by
  decide +kernel
theorem test_run_displayOff :
    sends 8 0xAE 0x00 0xAE = true ∧
      payloads .displayOff (State.reset.placeCommand .displayOff) = [0xAE] := by decide +kernel
theorem test_run_setDisplayClockDiv :
    sends 8 0xD5 0x00 0xD5 = true ∧
      payloads .setDisplayClockDiv (State.reset.placeCommand .setDisplayClockDiv) = [0xD5, 0x80] := by decide +kernel
theorem test_run_setMultiplex :
    sends 8 0xA8 0x00 0xA8 = true ∧
      payloads .setMultiplex (State.reset.placeCommand .setMultiplex) = [0xA8, 0x1F] := by decide +kernel
theorem test_run_setDisplayOffset :
    sends 8 0xD3 0x00 0xD3 = true ∧
      payloads .setDisplayOffset (State.reset.placeCommand .setDisplayOffset) = [0xD3, 0x00] := by decide +kernel
theorem test_run_setStartLine :
    sends 8 0x40 0x00 0x40 = true ∧
      payloads (.setStartLine 0) (State.reset.placeCommand (.setStartLine 0)) = [0x40] := by decide +kernel
theorem test_run_chargePump :
    sends 8 0x8D 0x00 0x8D = true ∧
      payloads .chargePump (State.reset.placeCommand .chargePump) = [0x8D, 0x14] := by decide +kernel
theorem test_run_memoryMode :
    sends 8 0x20 0x00 0x20 = true ∧
      payloads .memoryMode (State.reset.placeCommand .memoryMode) = [0x20, 0x02] := by decide +kernel
theorem test_run_segRemap :
    sends 8 0xA1 0x00 0xA1 = true ∧
      payloads .segRemap (State.reset.placeCommand .segRemap) = [0xA1] := by decide +kernel
theorem test_run_comScanDec :
    sends 8 0xC8 0x00 0xC8 = true ∧
      payloads .comScanDec (State.reset.placeCommand .comScanDec) = [0xC8] := by decide +kernel
theorem test_run_setComPins :
    sends 8 0xDA 0x00 0xDA = true ∧
      payloads .setComPins (State.reset.placeCommand .setComPins) = [0xDA, 0x02] := by decide +kernel
theorem test_run_setContrastLevel :
    sends 8 0x81 0x00 0x81 = true ∧
      payloads .setContrastLevel (State.reset.placeCommand .setContrastLevel) = [0x81, 0xCF] := by decide +kernel
theorem test_run_setPrecharge :
    sends 8 0xD9 0x00 0xD9 = true ∧
      payloads .setPrecharge (State.reset.placeCommand .setPrecharge) = [0xD9, 0xF1] := by decide +kernel
theorem test_run_setVcomDetect :
    sends 8 0xDB 0x00 0xDB = true ∧
      payloads .setVcomDetect (State.reset.placeCommand .setVcomDetect) = [0xDB, 0x40] := by decide +kernel
theorem test_run_displayAllOnResume :
    sends 8 0xA4 0x00 0xA4 = true ∧
      payloads .displayAllOnResume (State.reset.placeCommand .displayAllOnResume) = [0xA4] := by decide +kernel
theorem test_run_normalDisplay :
    sends 8 0xA6 0x00 0xA6 = true ∧
      payloads .normalDisplay (State.reset.placeCommand .normalDisplay) = [0xA6] := by decide +kernel
theorem test_run_invertDisplay :
    sends 8 0xA7 0x00 0xA7 = true ∧
      payloads .invertDisplay (State.reset.placeCommand .invertDisplay) = [0xA7] := by decide +kernel
theorem test_run_displayOn :
    sends 8 0xAF 0x00 0xAF = true ∧
      payloads .displayOn (State.reset.placeCommand .displayOn) = [0xAF] := by decide +kernel
theorem test_run_columnAddr :
    sends 8 0x21 0x00 0x21 = true ∧
      payloads .columnAddr (State.reset.placeCommand .columnAddr) = [0x21, 0x00, 0x7F] := by decide +kernel
theorem test_run_pageAddr :
    sends 8 0x22 0x00 0x22 = true ∧
      payloads .pageAddr (State.reset.placeCommand .pageAddr) = [0x22, 0x00, 0x03] := by decide +kernel
theorem test_run_rightHorizontalScroll :
    sends 8 0x26 0x00 0x26 = true ∧
      payloads .rightHorizontalScroll (State.reset.placeCommand .rightHorizontalScroll) = [0x26, 0x00, 0x00, 0x00, 0x00, 0x00, 0xFF] := by decide +kernel
theorem test_run_activateScroll :
    sends 8 0x2F 0x00 0x2F = true ∧
      payloads .activateScroll (State.reset.placeCommand .activateScroll) = [0x2F] := by decide +kernel
theorem test_run_deactivateScroll :
    sends 8 0x2E 0x00 0x2E = true ∧
      payloads .deactivateScroll (State.reset.placeCommand .deactivateScroll) = [0x2E] := by decide +kernel
/-- In INIT the contrast operand is CONTRAST of INIT_OPERANDS, 0x8F (R99). -/
theorem test_init_contrast : payloads .setContrastLevel (sending .init 16) = [0x81, 0x8F] := by decide +kernel
/-- SETCONTRAST 1 sends CONTRAST_DIM (R103). -/
theorem test_dim_contrast : payloads .setContrastLevel { sending .contrast 0 with argF := true } = [0x81, 0x00] := by
  decide +kernel

/-! ### Completion, transport errors and reset (95_test_vectors P7; R121, R134, R147) -/

/-- The last write of INIT completes it: STATUS 0x0008. -/
theorem test_init_completes :
    after (step (sending .init 24)) (fun s => s.status == 0x0008 && s.trace.getLast? == some (.done .init .ok)) = true := by
  decide +kernel
/-- An ERR in INIT: STATUS 0x0020, INIT_DONE still 0. -/
theorem test_init_transport :
    after (step { sending .init 4 with writeAnswers := [.err] })
      (fun s => s.status == 0x0020 && s.trace == [.busWrite 0x3C 0x00 0x1F .err, .done .init .transport]) = true := by
  decide +kernel
theorem test_reset_leaves_halt :
    after (step { halted with turns := [.reset], fb := [(7, 0xFF)] }) (fun s => s.status == 0 && s.fb == []) = true := by
  decide +kernel
theorem test_halted_ignores :
    after (step { presenting 0x1000000000000000 with phase := .halted, fault := .notInitialized })
      (fun s => s.status == 0x00C4 && s.requests == [0x1000000000000000]) = true := by decide +kernel
theorem test_emit_holds :
    after (step { sending .push 3 with turns := [.host], requests := [0] })
      (fun s => s.phase == .emit && s.requests == [0] && s.trace == []) = true := by decide +kernel

/-! ### The assembler (30_encoding R59, R60; 95_test_vectors 2.1, 2.7) -/

theorem test_assemble_setpixel :
    (parseLine "SETPIXEL -1, 5, ON".toList).bind (AsmLine.assemble Config.default) = some [0x3FFF005000000001] := by
  decide +kernel
theorem test_assemble_scroll :
    (parseLine "SCROLLRIGHT 0x01, 2".toList).bind (AsmLine.assemble Config.default) = some [0x8001002000000000] := by
  decide +kernel
theorem test_assemble_pixels :
    (parseLine "SETPIXELS (1,1,ON), (4,4,BLACK)".toList).bind (AsmLine.assemble Config.default) =
      some [0x3001001000000001, 0x3004004000000000] := by decide +kernel
/-- The model's choice of log entry 22: a minus sign may stand before a `0x` number. -/
theorem test_assemble_minus_hexadecimal :
    (parseLine "SETPIXEL -0x1, 5, ON".toList).bind (AsmLine.assemble Config.default) = some [0x3FFF005000000001] := by
  decide +kernel
theorem test_assemble_grey : (parseLine "SETPIXELS (1,1,GREY)".toList).bind (AsmLine.assemble Config.default) = none := by
  decide +kernel
theorem test_bitmap_rows :
    bitmapPixel Config.default .on 129 = .setPixel 2 2 .on ∧ bitmapPixel Config.default .on 4096 = .setPixel 1 33 .on := by
  decide +kernel

/-! ### Witnesses: what the obligations assume can be met -/

theorem witness_ResetTurnRestoresTheBlock :
    ({ waiting (.ok 0) with turns := [.reset] }).cfg.wf = true ∧
      ({ waiting (.ok 0) with turns := [.reset] }).turns = .reset :: [] ∧
      ({ waiting (.ok 0) with turns := [.reset] }).phase = .pollWait := by decide +kernel

theorem witness_ResetTurnRestoresTheBlock_halted :
    ({ halted with turns := [.reset] }).phase = .halted ∧
      after (step { halted with turns := [.reset] }) (fun s => s.phase != .halted) = true := by decide +kernel

theorem witness_IllegalParametersAreRefused_low :
    step { State.reset with cfg := { Config.default with width := 0 } } = .refused .illegalParameters := rfl
theorem witness_IllegalParametersAreRefused_high :
    step { State.reset with cfg := { Config.default with width := 257 } } = .refused .illegalParameters := rfl
theorem witness_IllegalParametersAreRefused_height :
    step { State.reset with cfg := { Config.default with height := 33 } } = .refused .illegalParameters := rfl
theorem witness_IllegalParametersAreRefused_cap :
    step { State.reset with cfg := { Config.default with pollCap := some 0 } } = .refused .illegalParameters := rfl
theorem witness_IllegalParametersAreRefused_legal :
    (Config.ofGeometry 256 16).wf = true ∧ (Config.ofGeometry 1 1).wf = true ∧ (Config.ofGeometry 256 17).wf = false ∧
      (Config.ofGeometry 128 0).wf = false := by decide +kernel

theorem witness_ConfigurationNeverChanges : ∃ t, step (presenting 0x1000000000000000) = .next t := ⟨_, rfl⟩

theorem witness_DecodeOfEncodeIsTheInstruction :
    (Instr.drawLine (-2048) 2047 0 (-1)).wf = true ∧ (Instr.fbWrite 4095 0xFF).wf = true := by decide

theorem witness_LegalWordIsItsRequestsEncoding : decodeRequest 0xB1FF05A000000000 = .ok (.fbWrite 511 0x5A) := rfl

theorem witness_IllegalWordsFault :
    (presenting 0).cfg.wf = true ∧ (presenting 0).attends ∧ (presenting 0).turns = .host :: [] ∧
      (presenting 0).requests = 0 :: [] ∧ decodeRequest 0 = .error .reservedOp :=
  ⟨rfl, .inl rfl, rfl, rfl, rfl⟩
theorem witness_IllegalWordsFault_reasons :
    decodeRequest 0xC000000000000000 = .error .reservedOp ∧ decodeRequest 2 = .error .reservedField ∧
      decodeRequest 0x1000000000000001 = .error .mustBeZero := ⟨rfl, rfl, rfl⟩

theorem witness_AssembledWordsDecodeToTheExpansion :
    AsmLine.assemble Config.default (.fbWrite 3 0xA5) = some [0xB0030A5000000000] := by decide +kernel

theorem witness_HostTurnRunsTheDecodedRequest :
    (presenting 0x5000000000000000).cfg.wf = true ∧ (presenting 0x5000000000000000).turns = .host :: [] ∧
      (presenting 0x5000000000000000).requests = 0x5000000000000000 :: [] ∧
      decodeRequest 0x5000000000000000 = .ok .pushFrame := ⟨rfl, rfl, rfl, rfl⟩

theorem witness_SequencerTurnRunsTheDueWrite :
    (sending .push 6).cfg.wf = true ∧ (sending .push 6).turns = .sequencer :: [] ∧
      (sending .push 6).dueEntry = some (0x40, 0x00) ∧ decodeBusWrite 0x40 0x00 = .ok (.busDataWrite 0x00) := by
  refine ⟨by decide, rfl, by decide +kernel, rfl⟩
theorem witness_SequencerTurnRunsTheDueWrite_command :
    (sending .push 5).dueEntry = some (0x00, 0x03) ∧ decodeBusWrite 0x00 0x03 = .ok (.busCmdWrite 0x03) := by
  refine ⟨by decide +kernel, rfl⟩

theorem witness_SequencerTurnRunsTheStatusRead :
    ({ polling with turns := [.sequencer] }).cfg.wf = true ∧
      ({ polling with turns := [.sequencer] }).turns = .sequencer :: [] ∧
      ({ polling with turns := [.sequencer] }).phase = .pollReq := by decide +kernel
theorem witness_SequencerTurnRunsTheStatusRead_answer :
    ({ waiting (.ok 0xFF) with turns := [.sequencer] }).cfg.wf = true ∧
      ({ waiting (.ok 0xFF) with turns := [.sequencer] }).turns = .sequencer :: [] ∧
      ({ waiting (.ok 0xFF) with turns := [.sequencer] }).phase = .pollWait ∧
      ({ waiting (.ok 0xFF) with turns := [.sequencer] }).readAnswers = .ok 0xFF :: [] := by decide +kernel
theorem witness_SequencerTurnRunsTheStatusRead_none :
    ({ waiting .err with turns := [.sequencer], readAnswers := [] }).cfg.wf = true ∧
      ({ waiting .err with turns := [.sequencer], readAnswers := [] }).turns = .sequencer :: [] ∧
      ({ waiting .err with turns := [.sequencer], readAnswers := [] }).phase = .pollWait ∧
      ({ waiting .err with turns := [.sequencer], readAnswers := [] }).readAnswers = [] := by decide +kernel

theorem witness_SetPixelChangesOneBit :
    State.reset.cfg.wf = true ∧ Memory.wf State.reset.cfg.fbLen State.reset.fb = true ∧ State.reset.attends ∧
      (waiting .err).attends := ⟨rfl, rfl, .inl rfl, .inr (.inr rfl)⟩
/-- The clauses at the panel's edges. -/
theorem witness_SetPixelChangesOneBit_edges :
    locate Config.default 128 32 = some (511, 0x80) ∧ locate Config.default 129 32 = none ∧
      locate Config.default 1 0 = none := by decide +kernel

theorem witness_MapperIsInsideAndInjective :
    Config.default.wf = true ∧ 127 < Config.default.width ∧ 31 < Config.default.height := by decide

theorem witness_ClearZeroesTheFramebuffer : polling.attends := .inr (.inl rfl)

theorem witness_FbReadAnswersTheByte :
    State.reset.attends ∧ 511 < State.reset.cfg.fbLen ∧ ¬ 512 < State.reset.cfg.fbLen := ⟨.inl rfl, by decide, by decide⟩

theorem witness_FbWriteStoresTheByte :
    Memory.wf ({ State.reset with fb := [(0, 1), (511, 2)] }).cfg.fbLen [(0, 1), (511, 2)] = true ∧
      ({ State.reset with fb := [(0, 1), (511, 2)] }).attends ∧ 511 < State.reset.cfg.fbLen ∧
      ¬ 512 < State.reset.cfg.fbLen := ⟨by decide +kernel, .inl rfl, by decide +kernel, by decide +kernel⟩

theorem witness_DrawLineSetsExactlyItsPoints :
    polling.cfg.wf = true ∧ Memory.wf polling.cfg.fbLen polling.fb = true ∧ polling.attends := ⟨rfl, rfl, .inr (.inl rfl)⟩

theorem witness_StraightLinesAreExact_diagonal :
    |(7 : Int) - 0| = |(-7 : Int) - 0| ∧ (lineIterations 0 0 7 (-7))[7]? = some { err := -3, x := 7, y := -7 } := by
  decide +kernel
theorem witness_StraightLinesAreExact_horizontal :
    (0 : Int) = 0 ∧ (lineIterations 0 0 10 0)[10]? = some { err := 5, x := 10, y := 0 } := by decide +kernel
theorem witness_StraightLinesAreExact_vertical :
    (0 : Int) = 0 ∧ (lineIterations 0 6 0 9)[3]? = some { err := -1, x := 0, y := 9 } := by decide +kernel

theorem witness_HandshakeRequestsStart : ready.phase = .idle ∧ ready.initDone = true := ⟨rfl, rfl⟩

theorem witness_EmissionRequestsStart :
    State.reset.phase = .idle ∧ State.reset.initDone = false ∧ ready.phase = .idle ∧ ready.initDone = true :=
  ⟨rfl, rfl, rfl, rfl⟩

theorem witness_BusRequestsFaultInOrder :
    busRequestOp .stopScroll = some .stopScroll ∧ busRequestOp .init = some .init ∧ polling.phase = .pollReq ∧
      (waiting .err).phase = .pollWait ∧ ready.phase = .idle ∧ ready.initDone = true ∧
      State.reset.initDone = false := by decide +kernel

theorem witness_EmitHoldsEveryWord :
    ({ sending .push 3 with turns := [.host] }).cfg.wf = true ∧ ({ sending .push 3 with turns := [.host] }).phase = .emit ∧
      ({ sending .push 3 with turns := [.host] }).turns = .host :: [] ∧
      decodeRequest 0x1000000000000000 = .ok .init := ⟨rfl, rfl, rfl, rfl⟩

theorem witness_HaltedBlockTakesNoStep :
    ({ halted with turns := [.host] }).cfg.wf = true ∧ ({ halted with turns := [.host] }).phase = .halted ∧
      ({ halted with turns := [.host] }).turns = .host :: [] ∧ Turn.host ≠ .reset := by decide +kernel

theorem witness_AcceptedRequestGetsOneResponse :
    State.reset.attends ∧ State.reset.fault = .none ∧ decodeRequest 0xA000000000000000 = .ok (.fbRead 0) ∧
      ∃ t, exec (.fbRead 0) State.reset = .next t ∧ t.fault = .none := ⟨.inl rfl, rfl, rfl, ⟨_, rfl, rfl⟩⟩
theorem witness_AcceptedRequestGetsOneResponse_fault :
    State.reset.attends ∧ State.reset.fault = .none ∧ decodeRequest 0xA200000000000000 = .ok (.fbRead 512) ∧
      ∃ t, exec (.fbRead 512) State.reset = .next t ∧ t.fault ≠ .none :=
  ⟨.inl rfl, rfl, rfl, ⟨_, rfl, by decide +kernel⟩⟩

theorem witness_StatusReadIsEmitted : polling.phase = .pollReq := rfl

theorem witness_StatusAnswerIsHandled :
    (waiting (.ok 0x00)).phase = .pollWait ∧ (waiting (.ok 0x00)).readAnswers = .ok 0x00 :: [] ∧
      busy (waiting (.ok 0x00)).cfg.busyMode 0x00 = false := by decide +kernel
theorem witness_StatusAnswerIsHandled_busy :
    (waiting (.ok 0x80)).phase = .pollWait ∧ (waiting (.ok 0x80)).readAnswers = .ok 0x80 :: [] ∧
      busy (waiting (.ok 0x80)).cfg.busyMode 0x80 = true ∧ (waiting (.ok 0x80)).capReached = false ∧
      ({ waiting (.ok 0x80) with pollCnt := 1000 }).capReached = true := by decide +kernel
theorem witness_StatusAnswerIsHandled_err :
    (waiting .err).phase = .pollWait ∧ ({ waiting .err with turns := [.sequencer] }).turns = .sequencer :: [] ∧
      (waiting .err).cfg.wf = true ∧ (waiting .err).readAnswers = .err :: [] := by decide +kernel

/-- The block with a handshake to run: the cap, the status bytes that will be answered, and as many turns. -/
def polled (cap : Option Nat) (bytes : List Byte) : State :=
  { polling with
    cfg := { Config.default with pollCap := cap }, readAnswers := bytes.map .ok,
    turns := List.replicate (2 * bytes.length) .sequencer }

/-- Two busy reads and a ready one, at a cap of exactly 3. -/
theorem witness_HandshakeReadsUntilReady :
    (polled (some 3) [0x80, 0x01, 0x00]).cfg.wf = true ∧ (polled (some 3) [0x80, 0x01, 0x00]).phase = .pollReq ∧
      (polled (some 3) [0x80, 0x01, 0x00]).pollCnt = 0 ∧ (∀ x ∈ ([0x80, 0x01] : List Byte), busy .anyBit x = true) ∧
      busy .anyBit 0x00 = false ∧ ([0x80, 0x01] : List Byte).length + 1 ≤ 3 ∧
      (polled (some 3) [0x80, 0x01, 0x00]).readAnswers = ([0x80, 0x01] : List Byte).map .ok ++ .ok 0x00 :: [] ∧
      (polled (some 3) [0x80, 0x01, 0x00]).turns =
        List.replicate (2 * (([0x80, 0x01] : List Byte).length + 1)) .sequencer ++ [] := by decide +kernel

theorem witness_HandshakeTimesOutAtTheCap :
    (polled (some 3) [0x80, 0x80, 0x80]).cfg.wf = true ∧ (polled (some 3) [0x80, 0x80, 0x80]).phase = .pollReq ∧
      (polled (some 3) [0x80, 0x80, 0x80]).pollCnt = 0 ∧
      (polled (some 3) [0x80, 0x80, 0x80]).cfg.pollCap = some ([0x80, 0x80, 0x80] : List Byte).length ∧
      (∀ x ∈ ([0x80, 0x80, 0x80] : List Byte), busy .anyBit x = true) ∧
      (polled (some 3) [0x80, 0x80, 0x80]).readAnswers = ([0x80, 0x80, 0x80] : List Byte).map .ok ++ [] ∧
      (polled (some 3) [0x80, 0x80, 0x80]).turns =
        List.replicate (2 * ([0x80, 0x80, 0x80] : List Byte).length) .sequencer ++ [] := by decide +kernel
theorem witness_HandshakeTimesOutAtTheCap_unbounded :
    (polled none [0x80]).cfg.wf = true ∧ (polled none [0x80]).phase = .pollReq ∧ (polled none [0x80]).cfg.pollCap = none ∧
      (∀ x ∈ ([0x80] : List Byte), busy .anyBit x = true) ∧
      (polled none [0x80]).readAnswers = ([0x80] : List Byte).map .ok ++ [] ∧
      (polled none [0x80]).turns = List.replicate (2 * ([0x80] : List Byte).length) .sequencer ++ [] := by
  decide +kernel

theorem witness_EmissionListsAreTheSpecsSequences :
    (sending .scroll 0).cfg = Config.default ∧ (sending .scroll 0).curOp = .scroll ∧
      ({ sending .scroll 0 with cfg := { Config.default with scrollForm := .minimal } }).cfg.scrollForm = .minimal := by
  decide +kernel

/-- The clause for every configuration, at the smallest panel. -/
theorem witness_EmissionListsAreTheSpecsSequences_push :
    ({ sending .push 0 with cfg := Config.ofGeometry 1 1 }).curOp = .push ∧
      ({ sending .push 0 with cfg := Config.ofGeometry 1 1 }).emissionList =
        [(0x00, 0x21), (0x00, 0x00), (0x00, 0x00), (0x00, 0x22), (0x00, 0x00), (0x00, 0x00), (0x40, 0x00)] := by
  decide +kernel
theorem witness_EmissionListsAreTheSpecsSequences_operations :
    (sending .init 0).curOp = .init ∧ (sending .contrast 0).curOp = .contrast ∧ (sending .invert 0).curOp = .invert ∧
      (sending .scroll 0).cfg.scrollForm = .ssd1306 ∧ (sending .stopScroll 0).curOp = .stopScroll ∧
      State.reset.curOp = .none := by decide +kernel

theorem witness_CommandBytesAreTheirRules :
    (sending .init 16).cfg = Config.default ∧ (sending .init 16).curOp = .init ∧ (sending .contrast 0).curOp = .contrast ∧
      (sending .scroll 0).cfg.scrollForm = .ssd1306 ∧
      ({ sending .scroll 0 with cfg := { Config.default with scrollForm := .minimal } }).cfg.scrollForm = .minimal := by
  decide +kernel

theorem witness_DueWriteIsSent :
    (sending .init 24).cfg.wf = true ∧ (sending .init 24).dueEntry = some (0x00, 0xAF) ∧
      decodeBusWrite 0x00 0xAF = .ok (.busCmdWrite 0xAF) ∧ (sending .init 24).writeAnswers = .ok :: [] := by
  refine ⟨by decide +kernel, by decide +kernel, rfl, rfl⟩
/-- A data write at the last byte of a frame. -/
theorem witness_DueWriteIsSent_data :
    (sending .push 517).dueEntry = some (0x40, 0x00) ∧ decodeBusWrite 0x40 0x00 = .ok (.busDataWrite 0x00) := by
  refine ⟨by decide +kernel, rfl⟩
/-- The clause of ERR. -/
theorem witness_DueWriteIsSent_err :
    ({ sending .init 24 with writeAnswers := [.err] }).cfg.wf = true ∧
      ({ sending .init 24 with writeAnswers := [.err] }).dueEntry = some (0x00, 0xAF) ∧
      decodeBusWrite 0x00 0xAF = .ok (.busCmdWrite 0xAF) ∧
      ({ sending .init 24 with writeAnswers := [.err] }).writeAnswers = .err :: [] ∧
      ({ sending .init 24 with writeAnswers := [.err] }).turns = .sequencer :: [] := by
  refine ⟨by decide +kernel, by decide +kernel, rfl, rfl, by decide +kernel⟩
/-- The clause of the answer that has not arrived (log entry 9). -/
theorem witness_DueWriteIsSent_waiting :
    ({ sending .init 24 with writeAnswers := [] }).cfg.wf = true ∧
      ({ sending .init 24 with writeAnswers := [] }).dueEntry = some (0x00, 0xAF) ∧
      decodeBusWrite 0x00 0xAF = .ok (.busCmdWrite 0xAF) ∧
      ({ sending .init 24 with writeAnswers := [] }).writeAnswers = [] ∧
      ({ sending .init 24 with writeAnswers := [] }).turns = .sequencer :: [] := by
  refine ⟨by decide +kernel, by decide +kernel, rfl, rfl, by decide +kernel⟩


/-- What CommandSendsItsBytes assumes of a command, at the state in which `withFetchWord` places it. -/
def commandMeets (i : Instr) : Bool :=
  let s := { State.reset.placeCommand i with
    writeAnswers := List.replicate ((State.reset.placeCommand i).commandBytes i).length .ok }
  s.cfg.wf && s.phase == .emit && s.dueCommand == some i &&
    s.writeAnswers == List.replicate (s.commandBytes i).length .ok ++ []

theorem witness_CommandSendsItsBytes :
    [ .displayOff, .setDisplayClockDiv, .setMultiplex, .setDisplayOffset, .setStartLine 0, .chargePump, .memoryMode,
      .segRemap, .comScanDec, .setComPins, .setContrastLevel, .setPrecharge, .setVcomDetect, .displayAllOnResume,
      .normalDisplay, .invertDisplay, .displayOn, .columnAddr, .pageAddr, .rightHorizontalScroll, .activateScroll,
      .deactivateScroll ].all commandMeets = true := by decide +kernel

theorem witness_CommandSendsItsBytes_lists :
    (sending .init 0).curOp ≠ .push ∧ (0x00, 0xAE) ∈ (sending .init 0).emissionList := by decide +kernel

theorem witness_CommandIsItsSequencerSteps :
    ({ sending .push 0 with turns := [.sequencer, .sequencer, .sequencer] }).cfg.wf = true ∧
      ({ sending .push 0 with turns := [.sequencer, .sequencer, .sequencer] }).phase = .emit ∧
      ({ sending .push 0 with turns := [.sequencer, .sequencer, .sequencer] }).dueCommand = some .columnAddr ∧
      ({ sending .push 0 with turns := [.sequencer, .sequencer, .sequencer] }).turns =
        List.replicate ((sending .push 0).commandBytes .columnAddr).length .sequencer ++ [] := by decide +kernel

theorem witness_WhatIsNotDueIsNotSent :
    decodeBusWrite 0x40 0x01 = .ok (.busDataWrite 0x01) ∧ State.reset.dueEntry ≠ some (0x40, 0x01) ∧
      decodeCommand 0xAE = .ok .displayOff ∧ State.reset.dueCommand ≠ some .displayOff ∧ (63 : BitVec 6) ≠ 0 := by
  refine ⟨rfl, by decide +kernel, rfl, by decide +kernel, by decide⟩

theorem witness_OnlyEmissionEntriesAreSent :
    ∃ t, exec (.busCmdWrite 0xAF) (sending .init 24) = .next t ∧
      PortEvent.busWrite 0x3C 0x00 0xAF .ok ∈ t.trace := ⟨_, rfl, by decide +kernel⟩

theorem witness_EmissionRunsInOrder :
    (sending .init 24).cfg.wf = true ∧ (sending .init 24).phase = .emit ∧ (sending .init 24).emissionList.length = 25 ∧
      (sending .init 24).seqIdx.toNat + 1 ≤ 25 ∧ (sending .init 24).writeAnswers = List.replicate 1 .ok ++ [] ∧
      (sending .init 24).turns = List.replicate 1 .sequencer ++ [] := by decide +kernel

/-- One acknowledged write, and ERR at the fifth of INIT (program P7). -/
def failing : State := { sending .init 3 with writeAnswers := [.ok, .err], turns := [.sequencer, .sequencer] }

theorem witness_TransportErrorEndsTheOperation :
    failing.cfg.wf = true ∧ failing.phase = .emit ∧ failing.emissionList[failing.seqIdx.toNat + 1]? = some (0x00, 0x1F) ∧
      failing.writeAnswers = List.replicate 1 .ok ++ .err :: [] ∧
      failing.turns = List.replicate (1 + 1) .sequencer ++ [] := by decide +kernel

theorem witness_HeldWordsDoNotChangeTheFrame :
    ({ sending .push 6 with turns := [.host, .sequencer, .host] }).cfg.wf = true ∧
      ({ sending .push 6 with turns := [.host, .sequencer, .host] }).phase = .emit ∧
      (∀ turn ∈ [Turn.host, .sequencer, .host], turn ≠ .reset) ∧
      (sending .push 6).seqIdx.toNat + [Turn.host, .sequencer, .host].count .sequencer < (sending .push 6).emissionList.length ∧
      (sending .push 6).writeAnswers = List.replicate ([Turn.host, .sequencer, .host].count .sequencer) .ok ++ [] ∧
      ({ sending .push 6 with turns := [.host, .sequencer, .host] }).turns = [.host, .sequencer, .host] ++ [] := by
  decide +kernel

/-- The invariant holds inside an emission. -/
theorem sending_inv {op : Op} {k : Nat}
    (hk : (sending op k).seqIdx.toNat < (sending op k).emissionList.length) : (sending op k).Inv where
  cfgOk := rfl
  fbOk := rfl
  idleOp := fun h => nomatch h
  pollOp := fun h => nomatch h
  emitIdx := fun _ => hk
  haltedFault := ⟨(fun h => nomatch h), fun h => absurd rfl h⟩
  initOp := fun h => by simpa [sending, State.emitting] using h
  otherOp := fun _ h => by simpa [sending, State.emitting] using h
  lastOk := fun _ => rfl
  reqBelowCap := fun _ _ h => nomatch h
  waitWithinCap := fun h => nomatch h

theorem witness_EveryStepKeepsTheInvariant :
    (sending .push 517).Inv ∧ after (step (sending .push 517)) (fun s => s.phase == .idle) = true :=
  ⟨sending_inv (by decide +kernel), by decide +kernel⟩

/-- The invariant holds in a halted block. -/
theorem halted_inv : ({ halted with turns := [.reset] }).Inv where
  cfgOk := rfl
  fbOk := rfl
  idleOp := fun h => nomatch h
  pollOp := fun h => nomatch h
  emitIdx := fun h => nomatch h
  haltedFault := ⟨(fun _ h => nomatch h), fun _ => rfl⟩
  initOp := fun h => nomatch h
  otherOp := fun h => absurd rfl h
  lastOk := fun _ => rfl
  reqBelowCap := fun _ _ h => nomatch h
  waitWithinCap := fun h => nomatch h

theorem witness_OnlyResetClearsAFault :
    ({ halted with turns := [.reset] }).Inv ∧ ({ halted with turns := [.reset] }).fault ≠ .none ∧
      after (step { halted with turns := [.reset] }) (fun s => s.fault != halted.fault) = true :=
  ⟨halted_inv, by decide +kernel, by decide +kernel⟩

theorem witness_InitDoneRisesOnlyWhenInitCompletes :
    (sending .init 24).initDone = false ∧ after (step (sending .init 24)) (fun s => s.initDone) = true ∧
      after (step { ready with turns := [.reset] }) (fun s => !s.initDone) = true := by decide +kernel

theorem witness_OnlyItsWritersChangeTheFramebuffer :
    after (step (presenting 0xB0030A5000000000)) (fun s => s.fb != State.reset.fb) = true ∧
      writesFb .pushFrame = false := by decide +kernel

theorem witness_AtMostOneTransactionAStep :
    after (step (sending .push 6)) (fun s => (s.trace.filter PortEvent.isTransaction).length == 1) = true := by
  decide +kernel

theorem witness_DoneExactlyWhenTheOperationEnds :
    (sending .stopScroll 0).Inv ∧ (sending .stopScroll 0).turns.head? ≠ some .reset ∧
      after (step (sending .stopScroll 0))
        (fun s => s.trace.getLast? == some (.done .stopScroll .ok) && s.curOp == .none) = true :=
  ⟨sending_inv (by decide +kernel), by decide +kernel, by decide +kernel⟩

theorem witness_FramebufferSteersNothing :
    State.sameButFramebuffer (sending .push 6) { sending .push 6 with fb := [(0, 0xFF)] } ∧
      after (step (sending .push 6)) (fun _ => true) = true := ⟨rfl, by decide +kernel⟩

theorem witness_BitmapPaintsEveryPixel :
    State.reset.cfg.wf = true ∧ Memory.wf State.reset.cfg.fbLen State.reset.fb = true ∧ State.reset.attends :=
  ⟨rfl, rfl, .inl rfl⟩

theorem witness_LoadedBytesReadBack :
    Memory.wf State.reset.cfg.fbLen State.reset.fb = true ∧ State.reset.attends ∧
      (List.replicate 512 (0xA5 : Byte)).length = State.reset.cfg.fbLen ∧
      ([] : List Byte).length ≠ State.reset.cfg.fbLen := ⟨rfl, .inl rfl, by decide +kernel, by decide +kernel⟩

end Sys2Proof.Tests
end

/-! PROOFS. The statements of spec/00_scope.md: the invariant is kept by everything the block does, the parameter
sets that the machine refuses, and the emission list of each operation. -/

namespace Sys2Proof.Machine

/-! ### What keeps the invariant -/

section Keeping

variable {s : State}

/-- No fault is recorded outside HALTED. -/
theorem State.Inv.fault_eq_none (h : s.Inv) (hp : s.phase ≠ .halted) : s.fault = .none :=
  not_not.mp fun hf => hp (h.haltedFault.mpr hf)

/-- An idle block without an operation or a fault meets the invariant, whatever its other registers hold. -/
theorem State.inv_of_idle (hc : s.cfg.wf = true) (hfb : Memory.wf s.cfg.fbLen s.fb = true) (hp : s.phase = .idle)
    (ho : s.curOp = .none) (hf : s.fault = .none) : s.Inv where
  cfgOk := hc
  fbOk := hfb
  idleOp _ := ho
  pollOp := by simp [hp]
  emitIdx := by simp [hp]
  haltedFault := by simp [hp, hf]
  initOp := by simp [ho]
  otherOp := by simp [ho]
  lastOk := by simp [State.inFlight, hp]
  reqBelowCap := by simp [hp]
  waitWithinCap := by simp [hp]

/-- In EMIT, of an operation that fits INIT_DONE, the index is all that is left to check. -/
theorem State.inv_of_emit (hc : s.cfg.wf = true) (hfb : Memory.wf s.cfg.fbLen s.fb = true) (hp : s.phase = .emit)
    (hf : s.fault = .none) (hl : s.lastErr = .ok) (hinit : s.curOp = .init → s.initDone = false)
    (hother : s.curOp ≠ .none → s.curOp ≠ .init → s.initDone = true)
    (hidx : s.seqIdx.toNat < s.emissionList.length) : s.Inv where
  cfgOk := hc
  fbOk := hfb
  idleOp := by simp [hp]
  pollOp := by simp [hp]
  emitIdx _ := hidx
  haltedFault := by simp [hp, hf]
  initOp := hinit
  otherOp := hother
  lastOk _ := hl
  reqBelowCap := by simp [hp]
  waitWithinCap := by simp [hp]

/-- In POLL_REQ, of a polling operation after INIT, the count is all that is left to check. -/
theorem State.inv_of_pollReq (hc : s.cfg.wf = true) (hfb : Memory.wf s.cfg.fbLen s.fb = true)
    (hp : s.phase = .pollReq) (hf : s.fault = .none) (hl : s.lastErr = .ok) (hop : s.curOp.polls = true)
    (hdone : s.initDone = true) (hcnt : ∀ cap, s.cfg.pollCap = some cap → s.pollCnt < cap) : s.Inv where
  cfgOk := hc
  fbOk := hfb
  idleOp := by simp [hp]
  pollOp _ := hop
  emitIdx := by simp [hp]
  haltedFault := by simp [hp, hf]
  initOp ho := by simp [ho, Op.polls] at hop
  otherOp _ _ := hdone
  lastOk _ := hl
  reqBelowCap cap hcap _ := hcnt cap hcap
  waitWithinCap := by simp [hp]

/-- The invariant reads nothing of the surroundings: words, turns, answers and trace. -/
theorem State.Inv.with_surroundings (h : s.Inv) (rs : List Hrw) (ts : List Turn) (was : List WriteAnswer)
    (ras : List ReadAnswer) (tr : List PortEvent) :
    { s with requests := rs, turns := ts, writeAnswers := was, readAnswers := ras, trace := tr }.Inv where
  __ := h

theorem State.Inv.withTurns (h : s.Inv) (ts : List Turn) : (s.withTurns ts).Inv :=
  h.with_surroundings _ ts _ _ _

theorem State.Inv.respond (h : s.Inv) (r : Response) : (s.respond r).Inv :=
  h.with_surroundings _ _ _ _ _

/-- Outside EMIT no register depends on the framebuffer. -/
theorem State.Inv.with_fb (h : s.Inv) (ha : s.attends) {fb : Memory} (hfb : Memory.wf s.cfg.fbLen fb = true) :
    { s with fb := fb }.Inv where
  __ := h
  fbOk := hfb
  emitIdx hp := by rcases ha with ha | ha | ha <;> cases ha.symm.trans hp

/-- Recording a fault keeps CUR_OP and halts, so that what the invariant says of the other phases is void. -/
theorem State.Inv.raise (h : s.Inv) {code : FaultCode} (hcode : code ≠ .none) : (s.raise code).Inv where
  cfgOk := h.cfgOk
  fbOk := h.fbOk
  idleOp := by simp
  pollOp := by simp
  emitIdx := by simp
  haltedFault := by simp [hcode]
  initOp := h.initOp
  otherOp := h.otherOp
  lastOk := by simp [State.inFlight]
  reqBelowCap := by simp
  waitWithinCap := by simp

theorem State.Inv.applyReset (h : s.Inv) : s.applyReset.Inv :=
  State.inv_of_idle h.cfgOk rfl rfl rfl rfl

/-! #### Requests -/

theorem State.attends.phase_ne_halted (h : s.attends) : s.phase ≠ .halted := by
  rcases h with h | h | h <;> simp [h]

/-- POLL_CAP is at least 1 (R113). -/
theorem Config.zero_lt_pollCap {cfg : Config} (h : cfg.wf = true) {cap : Nat} (hcap : cfg.pollCap = some cap) :
    0 < cap := by
  simp only [Config.wf, decide_eq_true_eq] at h
  obtain ⟨-, -, -, -, -, hne⟩ := h
  exact Nat.pos_of_ne_zero fun h0 => hne (h0 ▸ hcap)

/-- A word keeps the invariant if its effect does where words are attended to. -/
theorem State.Inv.attend (h : s.Inv) {effect : State → State} (he : s.attends → (effect s).Inv) :
    (s.attend effect).Inv := by
  obtain ⟨ha, hs⟩ | ⟨-, hs⟩ := s.attend_cases effect <;> rw [hs]
  · exact he ha
  · exact h

section BusRequests

variable {op : Op} {latch : State → State} (hop : op ≠ .none)
  (hl : ∀ t, ∃ f a b, latch t = { t with argF := f, argStart := a, argStop := b })
include hop hl

/-- A polling operation starts with no read counted, and any other at the first entry of its list. -/
theorem State.Inv.startOp (h : s.Inv) (hp : s.phase ≠ .halted)
    (hi : op = .init ↔ s.initDone = false) : (s.startOp op latch).Inv := by
  obtain ⟨f, a, b, hlatch⟩ := hl { s with curOp := op, lastErr := .ok }
  have hf : s.fault = .none := h.fault_eq_none hp
  have hother : op ≠ .init → s.initDone = true := fun ho => by simpa [ho] using hi
  unfold State.startOp
  rw [hlatch]
  refine State.Inv.respond ?_ _
  by_cases hpolls : op.polls = true
  · rw [if_pos hpolls]
    exact State.inv_of_pollReq h.cfgOk h.fbOk rfl hf rfl hpolls
      (hother fun ho => by simp [ho, Op.polls] at hpolls) fun _ => Config.zero_lt_pollCap h.cfgOk
  · rw [if_neg hpolls]
    exact State.inv_of_emit h.cfgOk h.fbOk rfl hf rfl hi.mp (fun _ => hother) (State.emissionList_length_pos hop)

theorem State.Inv.acceptBus (h : s.Inv) (hp : s.phase ≠ .halted) : (s.acceptBus op latch).Inv := by
  obtain ⟨-, hs⟩ | ⟨-, -, -, hs⟩ | ⟨-, -, -, hs⟩ | ⟨-, hi, hs⟩ := s.acceptBus_cases op latch <;> rw [hs]
  · exact h.raise (by decide)
  · exact h.raise (by decide)
  · exact h.raise (by decide)
  · exact h.startOp hop hl hp hi

theorem State.Inv.attend_acceptBus (h : s.Inv) : (s.attend fun t => t.acceptBus op latch).Inv :=
  h.attend fun ha => h.acceptBus hop hl ha.phase_ne_halted

end BusRequests

/-- A framebuffer request: the canonical form is all that its effect has to keep. -/
theorem State.Inv.attend_fb (h : s.Inv) {fbOf : State → Memory}
    (hfb : Memory.wf s.cfg.fbLen (fbOf s) = true) :
    (s.attend fun t => { t with fb := fbOf t }.respond .ack).Inv :=
  h.attend fun ha => (h.with_fb ha hfb).respond .ack

/-! #### Transactions -/

/-- The read that POLL_REQ emits is the one that its count leaves below the cap. -/
theorem State.Inv.requestStatus (h : s.Inv) (hp : s.phase = .pollReq) : s.requestStatus.Inv where
  cfgOk := h.cfgOk
  fbOk := h.fbOk
  idleOp := by simp
  pollOp _ := h.pollOp (.inl hp)
  emitIdx := by simp
  haltedFault := by simpa [hp] using h.haltedFault
  initOp := h.initOp
  otherOp := h.otherOp
  lastOk _ := h.lastOk (.inl hp)
  reqBelowCap := by simp
  waitWithinCap _ := ⟨Nat.succ_pos _, fun cap hcap => h.reqBelowCap cap hcap hp⟩

/-- The answer ends the operation, asks for a read below the cap, or starts the emission at its first entry. -/
theorem State.Inv.answerStatus (h : s.Inv) (hp : s.phase = .pollWait) (answer : ReadAnswer) :
    (s.answerStatus answer).Inv := by
  have hf : s.fault = .none := h.fault_eq_none (by simp [hp])
  have hl : s.lastErr = .ok := h.lastOk (.inr (.inl hp))
  have hpolls : s.curOp.polls = true := h.pollOp (.inr hp)
  have hnone : s.curOp ≠ .none := fun ho => by simp [ho, Op.polls] at hpolls
  have hinit : s.curOp ≠ .init := fun ho => by simp [ho, Op.polls] at hpolls
  obtain ⟨r, -, hs⟩ | ⟨hs, hcnt⟩ | hs := s.answerStatus_cases answer <;> rw [hs]
  · exact State.inv_of_idle h.cfgOk h.fbOk rfl rfl hf
  · exact State.inv_of_pollReq h.cfgOk h.fbOk rfl hf hl hpolls (h.otherOp hnone hinit) hcnt
  · exact State.inv_of_emit h.cfgOk h.fbOk rfl hf hl h.initOp h.otherOp (State.emissionList_length_pos hnone)

/-- After an acknowledged write the operation is complete, or its next index is inside the list. -/
theorem State.Inv.advanced_one (h : s.Inv) (hp : s.phase = .emit) : (s.advanced 1).Inv := by
  have hf : s.fault = .none := h.fault_eq_none (by simp [hp])
  have hlt := h.emitIdx hp
  by_cases hend : s.seqIdx.toNat + 1 = s.emissionList.length
  · rw [State.advanced, if_pos hend]
    exact State.inv_of_idle h.cfgOk h.fbOk rfl rfl hf
  · have hlt' : s.seqIdx.toNat + 1 < s.emissionList.length := by omega
    have hle := State.emissionList_length_le h.cfgOk
    rw [State.advanced_emit hlt']
    refine State.inv_of_emit h.cfgOk h.fbOk hp hf (h.lastOk (.inr (.inr hp))) h.initOp h.otherOp ?_
    change (BitVec.ofNat 13 (s.seqIdx.toNat + 1)).toNat < s.emissionList.length
    rwa [BitVec.toNat_ofNat, Nat.mod_eq_of_lt (by omega)]

theorem State.Inv.sendIfDue (h : s.Inv) (control payload : Byte) : (s.sendIfDue control payload).Inv := by
  obtain hs | ⟨hd, -, hs⟩ | ⟨hd, rest, -, hs⟩ := State.sendIfDue_cases (c := control) (b := payload) h.cfgOk <;>
    rw [hs]
  · exact h
  · exact h.advanced_one (State.dueEntry_eq_some.mp hd).1
  · have hp : s.phase = .emit := (State.dueEntry_eq_some.mp hd).1
    exact State.inv_of_idle h.cfgOk h.fbOk rfl rfl (h.fault_eq_none (by simp [hp]))

theorem State.Inv.sendCommand (h : s.Inv) (i : Instr) : (s.sendCommand i).Inv :=
  State.sendCommand_keeps (fun _ b ht => ht.sendIfDue 0x00 b) i h

end Keeping

/-! ### Instructions, turns and steps -/

/-- No instruction faults or is refused. -/
theorem exec_eq_next (i : Instr) (s : State) : ∃ t, exec i s = .next t := by
  cases i <;> exact ⟨_, rfl⟩

theorem exec_ne_refused (i : Instr) (s : State) (r : Refusal) : exec i s ≠ .refused r := by
  obtain ⟨t, ht⟩ := exec_eq_next i s
  simp [ht]

theorem execFbRead_inv {s : State} (h : s.Inv) (index : Nat) : ∃ t, execFbRead index s = .next t ∧ t.Inv := by
  refine ⟨_, rfl, h.attend fun _ => ?_⟩
  split
  · exact h.raise (by decide)
  · exact h.respond _

theorem execFbWrite_inv {s : State} (h : s.Inv) (index : Nat) (value : Byte) :
    ∃ t, execFbWrite index value s = .next t ∧ t.Inv := by
  refine ⟨_, rfl, h.attend fun ha => ?_⟩
  split
  · exact h.raise (by decide)
  · next hlt => exact (h.with_fb ha (Memory.write_wf value h.fbOk (Nat.not_le.mp hlt))).respond _

theorem execBusStatusRead_inv {s : State} (h : s.Inv) (status : Byte) :
    ∃ t, execBusStatusRead status s = .next t ∧ t.Inv := by
  refine ⟨_, rfl, ?_⟩
  cases hp : s.phase
  case pollReq => exact h.requestStatus hp
  case pollWait =>
    dsimp only
    split
    · exact h.answerStatus hp _
    · exact h
  case idle | emit | halted => exact h

/-- Every instruction answers a next state, and keeps the invariant. -/
theorem exec_inv (i : Instr) {s : State} (h : s.Inv) : ∃ t, exec i s = .next t ∧ t.Inv := by
  cases i
  case init | pushFrame | setContrast | invert | scrollRight | stopScroll =>
    exact ⟨_, rfl, h.attend_acceptBus (by decide) fun t => ⟨_, _, _, rfl⟩⟩
  case clear => exact ⟨_, rfl, h.attend_fb rfl⟩
  case setPixel x y color => exact ⟨_, rfl, h.attend_fb (paint_wf x y color h.cfgOk h.fbOk)⟩
  case drawLine x0 y0 x1 y1 => exact ⟨_, rfl, h.attend_fb (drawLineOn_wf x0 y0 x1 y1 h.cfgOk h.fbOk)⟩
  case fbRead index => exact execFbRead_inv h index
  case fbWrite index value => exact execFbWrite_inv h index value
  case busCmdWrite payload | busDataWrite payload => exact ⟨_, rfl, h.sendIfDue _ payload⟩
  case busStatusRead status => exact execBusStatusRead_inv h status
  all_goals exact ⟨_, rfl, h.sendCommand _⟩

theorem State.hostTurn_inv {s : State} (h : s.Inv) : ∃ t, s.hostTurn = .next t ∧ t.Inv := by
  obtain ⟨-, hs⟩ | ⟨_, _, _, -, -, hs⟩ | ⟨_, _, i, -, -, hs⟩ := s.hostTurn_cases <;> rw [hs]
  · exact ⟨_, rfl, h⟩
  · exact ⟨_, rfl, h.attend fun _ => h.raise (by decide)⟩
  · exact exec_inv i h

/-- In EMIT an entry is due, since the invariant keeps SEQ_IDX inside the list, so that the fault does not arise. -/
theorem State.sequencerTurn_inv {s : State} (h : s.Inv) : ∃ t, s.sequencerTurn = .next t ∧ t.Inv := by
  unfold State.sequencerTurn
  cases hp : s.phase
  case idle | halted => exact ⟨_, rfl, h⟩
  case pollReq => exact ⟨_, rfl, h.requestStatus hp⟩
  case pollWait =>
    dsimp only
    split
    · exact ⟨_, rfl, h⟩
    · exact ⟨_, rfl, h.answerStatus hp _⟩
    · exact exec_inv _ h
  case emit =>
    obtain ⟨c, b, i, hd, hi⟩ := State.dueEntry_of_emit hp (h.emitIdx hp)
    simpa only [hd, hi] using exec_inv i h

theorem State.takeTurn_inv {s : State} (h : s.Inv) (turn : Turn) : ∃ t, s.takeTurn turn = .next t ∧ t.Inv := by
  cases turn with
  | host => exact State.hostTurn_inv h
  | sequencer => exact State.sequencerTurn_inv h
  | reset => exact ⟨_, rfl, h.applyReset⟩

/-- From the invariant every step answers a next state, which meets it too. -/
theorem step_inv {s : State} (h : s.Inv) : ∃ t, step s = .next t ∧ t.Inv := by
  obtain ⟨hw, -⟩ | ⟨-, -, hs⟩ | ⟨-, turn, ts, -, hs⟩ := step_cases s
  · simp [h.cfgOk] at hw
  · exact ⟨s, hs, h⟩
  · rw [hs]
    exact State.takeTurn_inv (h.withTurns ts) turn

/-- Settles O46: `step_inv` and `exec_inv`, each answer being the only one. -/
theorem everyStepKeepsTheInvariant : Obligations.EveryStepKeepsTheInvariant := by
  refine ⟨fun s t h hst => ?_, fun s h => ?_, fun i s t h hit => ?_⟩
  · obtain ⟨u, hu, hinv⟩ := step_inv h
    cases hu.symm.trans hst
    exact hinv
  · obtain ⟨t, ht, -⟩ := step_inv h
    exact ⟨t, ht⟩
  · obtain ⟨u, hu, hinv⟩ := exec_inv i h
    cases hu.symm.trans hit
    exact hinv

/-! ### The parameters that are refused -/

theorem State.sequencerTurn_ne_refused (s : State) (r : Refusal) : s.sequencerTurn ≠ .refused r := by
  unfold State.sequencerTurn
  cases s.phase
  case idle | halted | pollReq => exact nofun
  case pollWait =>
    dsimp only
    split
    · exact nofun
    · exact nofun
    · exact exec_ne_refused _ s r
  case emit =>
    dsimp only
    split
    · exact nofun
    · split
      · exact exec_ne_refused _ s r
      · exact nofun

theorem State.takeTurn_ne_refused (s : State) (turn : Turn) (r : Refusal) : s.takeTurn turn ≠ .refused r := by
  cases turn with
  | host =>
    obtain ⟨-, hs⟩ | ⟨_, _, _, -, -, hs⟩ | ⟨_, _, i, -, -, hs⟩ := s.hostTurn_cases <;> rw [State.takeTurn, hs]
    · exact nofun
    · exact nofun
    · exact exec_ne_refused i s r
  | sequencer => exact s.sequencerTurn_ne_refused r
  | reset => exact nofun

/-- Only the check of the parameters refuses a step. -/
theorem step_eq_refused_iff (s : State) : step s = .refused .illegalParameters ↔ s.cfg.wf = false := by
  obtain ⟨hw, hs⟩ | ⟨hw, -, hs⟩ | ⟨hw, turn, ts, -, hs⟩ := step_cases s <;> rw [hs]
  · simp [hw]
  · simp [hw]
  · simp [hw, State.takeTurn_ne_refused]

/-- Settles O4: only the parameters' check refuses, and it is the bounds of R7 and R113. -/
theorem illegalParametersAreRefused : Obligations.IllegalParametersAreRefused := by
  intro s
  rw [step_eq_refused_iff, Config.wf, decide_eq_false_iff_not]

/-! ### The emission lists -/

/-- The emission list of the operation that CUR_OP names. -/
theorem State.emissionList_of_curOp {s : State} {op : Op} (h : s.curOp = op) :
    s.emissionList = emissionOf s.cfg s.fb s.argF s.argStart s.argStop op := by
  rw [State.emissionList, h]

theorem scrollOperands_of_ssd1306 {cfg : Config} (h : cfg.scrollForm = .ssd1306) (start stop : Byte) :
    scrollOperands cfg start stop = [0x00, start, 0x00, stop, 0x00, 0xFF] := by
  simp [scrollOperands, h]

theorem scrollOperands_of_minimal {cfg : Config} (h : cfg.scrollForm = .minimal) (start stop : Byte) :
    scrollOperands cfg start stop = [start, 0x00, stop, 0xFF] := by
  simp [scrollOperands, h]

/-- A push sends the window, and then the framebuffer in index order. -/
theorem emissionOf_push (cfg : Config) (fb : Memory) (argF : Bool) (argStart argStop : Byte) :
    emissionOf cfg fb argF argStart argStop .push =
      cmdEntries (winSeq cfg) ++
        (List.range (cfg.width * cfg.pages)).map fun k => ((0x40 : Byte), Memory.read fb k) := by
  simp [emissionOf, dataEntries, dataSeq, Config.fbLen, Function.comp_def]

/-- Settles O34: for every configuration each list is `emissionOf` of its operation written out, and the lists of the
default configuration are those at its parameters. -/
theorem emissionListsAreTheSpecsSequences : Obligations.EmissionListsAreTheSpecsSequences := by
  refine ⟨fun s => ⟨?none, ?init, ?push, ?contrast, ?invert, ?ssd1306, ?minimal, ?stopScroll⟩,
    fun s hc => ⟨?init', ?push', ?contrast', ?invert', ?scroll', ?stopScroll'⟩⟩
  case push => exact fun hop => (State.emissionList_of_curOp hop).trans (emissionOf_push ..)
  case ssd1306 =>
    intro hop hform
    rw [State.emissionList_of_curOp hop, emissionOf, scrollSeq, scrollOperands_of_ssd1306 hform]
    rfl
  case minimal =>
    intro hop hform
    rw [State.emissionList_of_curOp hop, emissionOf, scrollSeq, scrollOperands_of_minimal hform]
    rfl
  case push' =>
    intro hop
    have hlen : Config.default.width * Config.default.pages = 512 := rfl
    rw [State.emissionList_of_curOp hop, emissionOf_push, hc, hlen]
    rfl
  case none | init | contrast | invert | stopScroll => exact State.emissionList_of_curOp
  case init' | contrast' | invert' | scroll' | stopScroll' =>
    intro hop
    rw [State.emissionList_of_curOp hop, hc]
    rfl

end Sys2Proof.Machine

/-! PROOFS. The statements of spec/10_state.md: the values at reset, the fields of the STATUS port, and for the
configuration, FAULT, INIT_DONE and the framebuffer which turns and instructions may change them. -/

namespace Sys2Proof.Machine

/-! ### What a transaction leaves unchanged -/

theorem State.sendEntry_cfg_fb (s : State) (control payload : Byte) :
    (s.sendEntry control payload).cfg = s.cfg ∧ (s.sendEntry control payload).fb = s.fb := by
  unfold State.sendEntry
  cases s.writeAnswers with
  | nil => simp
  | cons answer rest =>
    cases answer with
    | err => simp
    | ok => dsimp only; split <;> simp

theorem State.sendIfDue_cfg_fb (s : State) (control payload : Byte) :
    (s.sendIfDue control payload).cfg = s.cfg ∧ (s.sendIfDue control payload).fb = s.fb := by
  unfold State.sendIfDue
  split
  · exact s.sendEntry_cfg_fb control payload
  · exact ⟨rfl, rfl⟩

theorem State.sendCommand_cfg_fb (s : State) (i : Instr) :
    (s.sendCommand i).cfg = s.cfg ∧ (s.sendCommand i).fb = s.fb := by
  refine State.sendCommand_keeps (P := fun t => t.cfg = s.cfg ∧ t.fb = s.fb) (fun t b ht => ?_) i ⟨rfl, rfl⟩
  obtain ⟨hcfg, hfb⟩ := t.sendIfDue_cfg_fb 0x00 b
  exact ⟨hcfg.trans ht.1, hfb.trans ht.2⟩

theorem State.answerStatus_keeps (s : State) (answer : ReadAnswer) :
    (s.answerStatus answer).cfg = s.cfg ∧ (s.answerStatus answer).fb = s.fb ∧
      (s.answerStatus answer).initDone = s.initDone := by
  obtain ⟨_, -, hs⟩ | ⟨hs, -⟩ | hs := s.answerStatus_cases answer <;> rw [hs] <;> exact ⟨rfl, rfl, rfl⟩

/-! ### What an instruction leaves unchanged -/

/-- What the effect of a word leaves unchanged, attending to the word leaves unchanged. -/
theorem State.attend_keeps {α : Type} (f : State → α) {s : State} {effect : State → State}
    (h : f (effect s) = f s) : f (s.attend effect) = f s := by
  obtain ⟨-, hs⟩ | ⟨-, hs⟩ := s.attend_cases effect <;> rw [hs]
  exact h

/-- A legal word is an instruction of the request format (R51). -/
theorem encode_eq_request_of_decodeRequest {w : Hrw} {i : Instr} (h : decodeRequest w = .ok i) :
    ∃ v, encode i = .request v := by
  unfold decodeRequest decodeFields at h
  split at h
  · cases h
  · split at h
    case h_12 => cases h
    all_goals
      unfold ifZero at h
      split at h
      · cases h
        exact ⟨_, rfl⟩
      · cases h

/-- A request is an effect that is attended to, which leaves the configuration and INIT_DONE unchanged, and the
framebuffer too unless the request is one of its writers (R16). -/
theorem exec_request {i : Instr} {w : Hrw} (h : encode i = .request w) :
    ∃ effect : State → State, (∀ s, exec i s = .next (s.attend effect)) ∧
      ∀ s, (effect s).cfg = s.cfg ∧ (effect s).initDone = s.initDone ∧
        (writesFb i = false → (effect s).fb = s.fb) := by
  cases i
  case init | pushFrame | setContrast | invert | scrollRight | stopScroll =>
    refine ⟨_, fun _ => rfl, fun s => ?_⟩
    obtain ⟨hcfg, hfb, hinit, -, -⟩ := s.acceptBus_keeps _ fun t => ⟨_, _, _, rfl⟩
    exact ⟨hcfg, hinit, fun _ => hfb⟩
  case clear | setPixel | drawLine => exact ⟨_, fun _ => rfl, fun s => ⟨rfl, rfl, nofun⟩⟩
  case fbRead | fbWrite =>
    refine ⟨_, fun _ => rfl, fun s => ?_⟩
    split <;> simp [writesFb]
  all_goals cases h

/-- A bus transaction or a command leaves the configuration and the framebuffer unchanged. -/
theorem exec_transaction {i : Instr} (h : ∀ w, encode i ≠ .request w) (s : State) :
    ∃ t, exec i s = .next t ∧ t.cfg = s.cfg ∧ t.fb = s.fb := by
  cases i
  case init | clear | setPixel | drawLine | pushFrame | setContrast | invert | scrollRight | stopScroll | fbRead |
      fbWrite => exact absurd rfl (h _)
  case busCmdWrite payload | busDataWrite payload => exact ⟨_, rfl, s.sendIfDue_cfg_fb _ payload⟩
  case busStatusRead status =>
    refine ⟨_, rfl, ?_⟩
    cases s.phase
    case pollReq => exact ⟨rfl, rfl⟩
    case pollWait =>
      dsimp only
      split
      · obtain ⟨hcfg, hfb, -⟩ := s.answerStatus_keeps (.ok status)
        exact ⟨hcfg, hfb⟩
      · exact ⟨rfl, rfl⟩
    case idle | emit | halted => exact ⟨rfl, rfl⟩
  all_goals exact ⟨_, rfl, s.sendCommand_cfg_fb _⟩

/-- No instruction changes the configuration, and only its writers change the framebuffer. -/
theorem exec_keeps {i : Instr} {s t : State} (h : exec i s = .next t) :
    t.cfg = s.cfg ∧ (writesFb i = false → t.fb = s.fb) := by
  by_cases hreq : ∃ w, encode i = .request w
  · obtain ⟨w, hw⟩ := hreq
    obtain ⟨effect, hexec, hkeeps⟩ := exec_request hw
    obtain ⟨hcfg, -, hfb⟩ := hkeeps s
    cases (hexec s).symm.trans h
    exact ⟨State.attend_keeps State.cfg hcfg, fun hi => State.attend_keeps State.fb (hfb hi)⟩
  · obtain ⟨u, hu, hcfg, hfb⟩ := exec_transaction (fun w hw => hreq ⟨w, hw⟩) s
    cases hu.symm.trans h
    exact ⟨hcfg, fun _ => hfb⟩

/-! ### The host's turn -/

/-- Whatever the word on the port, the host's turn changes neither the configuration nor INIT_DONE. -/
theorem State.hostTurn_keeps {s t : State} (h : s.hostTurn = .next t) : t.cfg = s.cfg ∧ t.initDone = s.initDone := by
  obtain ⟨-, hs⟩ | ⟨_, _, _, -, -, hs⟩ | ⟨w, _, i, -, hd, hs⟩ := s.hostTurn_cases
  · cases hs.symm.trans h
    exact ⟨rfl, rfl⟩
  · cases hs.symm.trans h
    exact ⟨State.attend_keeps State.cfg rfl, State.attend_keeps State.initDone rfl⟩
  · obtain ⟨v, hv⟩ := encode_eq_request_of_decodeRequest hd
    obtain ⟨effect, hexec, hkeeps⟩ := exec_request hv
    obtain ⟨hcfg, hinit, -⟩ := hkeeps s
    cases (hs.trans (hexec s)).symm.trans h
    exact ⟨State.attend_keeps State.cfg hcfg, State.attend_keeps State.initDone hinit⟩

/-- Where the host's turn changes the framebuffer, a word that decodes to one of its writers is attended to. -/
theorem State.attends_of_hostTurn_fb_ne {s t : State} (h : s.hostTurn = .next t) (hne : t.fb ≠ s.fb) :
    s.attends ∧ ∃ w ws i, s.requests = w :: ws ∧ decodeRequest w = .ok i ∧ writesFb i = true := by
  obtain ⟨-, hs⟩ | ⟨_, _, _, -, -, hs⟩ | ⟨w, ws, i, hr, hd, hs⟩ := s.hostTurn_cases
  · cases hs.symm.trans h
    exact absurd rfl hne
  · cases hs.symm.trans h
    exact absurd (State.attend_keeps State.fb rfl) hne
  · have hexec : exec i s = .next t := hs.symm.trans h
    obtain ⟨effect, heffect⟩ := exec_of_decodeRequest hd
    refine ⟨?_, w, ws, i, hr, hd, ?_⟩
    · obtain ⟨ha, -⟩ | ⟨-, hheld⟩ := s.attend_cases effect
      · exact ha
      · cases (heffect s).symm.trans hexec
        exact absurd (congrArg State.fb hheld) hne
    · exact Bool.of_not_eq_false fun hi => hne ((exec_keeps hexec).2 hi)

/-! ### The sequencer's turn -/

/-- All that the sequencer's turn can do (R110, R112, R120). -/
theorem State.sequencerTurn_cases (s : State) :
    (s.phase = .idle ∨ s.phase = .halted ∨ s.phase = .pollWait ∧ s.readAnswers = []) ∧ s.sequencerTurn = .next s ∨
    s.phase = .pollReq ∧ s.sequencerTurn = .next s.requestStatus ∨
    s.phase = .pollWait ∧ (∃ answer rest, s.readAnswers = answer :: rest ∧
      s.sequencerTurn = .next (s.answerStatus answer)) ∨
    (∃ c b, s.dueEntry = some (c, b) ∧ s.sequencerTurn = .next (s.sendIfDue c b)) ∨
    s.phase = .emit ∧ s.dueEntry = none ∧ s.sequencerTurn = .fault .emissionPastEnd := by
  unfold State.sequencerTurn
  cases hp : s.phase
  case idle | halted | pollReq => simp
  case pollWait =>
    cases ha : s.readAnswers with
    | nil => simp
    | cons answer rest => cases answer <;> simp [exec, execBusStatusRead, hp, ha]
  case emit =>
    cases hd : s.dueEntry with
    | none => simp
    | some e =>
      obtain ⟨c, b⟩ := e
      obtain ⟨i, hi⟩ := decodeBusWrite_of_control b (State.emissionList_control (State.dueEntry_mem hd))
      simp [hi, exec_busWrite hi]

theorem State.sequencerTurn_cfg_fb {s t : State} (h : s.sequencerTurn = .next t) : t.cfg = s.cfg ∧ t.fb = s.fb := by
  obtain ⟨-, hs⟩ | ⟨-, hs⟩ | ⟨-, answer, _, -, hs⟩ | ⟨c, b, -, hs⟩ | ⟨-, -, hs⟩ := s.sequencerTurn_cases <;>
    cases hs.symm.trans h
  · exact ⟨rfl, rfl⟩
  · exact ⟨rfl, rfl⟩
  · obtain ⟨hcfg, hfb, -⟩ := s.answerStatus_keeps answer
    exact ⟨hcfg, hfb⟩
  · exact s.sendIfDue_cfg_fb c b

/-! ### Steps -/

/-- All that a step which answers a state can do: nothing without a turn, or the turn at the head. -/
theorem step_next_cases {s t : State} (h : step s = .next t) :
    s.turns = [] ∧ t = s ∨
      s.cfg.wf = true ∧ ∃ turn ts, s.turns = turn :: ts ∧ (s.withTurns ts).takeTurn turn = .next t := by
  obtain ⟨-, hs⟩ | ⟨-, ht, hs⟩ | ⟨hw, turn, ts, ht, hs⟩ := step_cases s
  · cases hs.symm.trans h
  · cases hs.symm.trans h
    exact .inl ⟨ht, rfl⟩
  · exact .inr ⟨hw, turn, ts, ht, hs.symm.trans h⟩

/-! ### The configuration -/

theorem State.takeTurn_cfg {s t : State} {turn : Turn} (h : s.takeTurn turn = .next t) : t.cfg = s.cfg := by
  cases turn with
  | host => exact (State.hostTurn_keeps h).1
  | sequencer => exact (State.sequencerTurn_cfg_fb h).1
  | reset => cases h; rfl

/-- Settles O5: no agent's turn writes the configuration, and no instruction does. -/
theorem configurationNeverChanges : Obligations.ConfigurationNeverChanges := by
  refine ⟨fun s t h => ?_, fun _ _ _ h => (exec_keeps h).1⟩
  obtain ⟨-, rfl⟩ | ⟨-, _, ts, -, hturn⟩ := step_next_cases h
  · rfl
  · exact State.takeTurn_cfg (s := s.withTurns ts) hturn

/-! ### FAULT -/

/-- In HALTED no word is accepted and the sequencer takes no step (R131). -/
theorem State.takeTurn_of_halted {s : State} (hp : s.phase = .halted) {turn : Turn} (hne : turn ≠ .reset) :
    s.takeTurn turn = .next s := by
  cases turn with
  | host =>
    obtain ⟨-, hs⟩ | ⟨_, _, _, -, -, hs⟩ | ⟨_, _, i, -, hd, hs⟩ := s.hostTurn_cases <;> rw [State.takeTurn, hs]
    · rw [State.attend_halted _ hp]
    · obtain ⟨effect, hexec⟩ := exec_of_decodeRequest hd
      rw [hexec, State.attend_halted _ hp]
  | sequencer => simp [State.takeTurn, State.sequencerTurn, hp]
  | reset => exact absurd rfl hne

/-- Settles O47: under the invariant a recorded fault means HALTED, where every turn but reset's does nothing. -/
theorem onlyResetClearsAFault : Obligations.OnlyResetClearsAFault := by
  intro s t hinv hf h hne
  have hp : s.phase = .halted := hinv.haltedFault.mpr hf
  obtain ⟨-, rfl⟩ | ⟨-, turn, ts, ht, hturn⟩ := step_next_cases h
  · exact absurd rfl hne
  · by_cases hr : turn = .reset
    · simp [ht, hr]
    · cases (State.takeTurn_of_halted (s := s.withTurns ts) hp hr).symm.trans hturn
      exact absurd rfl hne

/-! ### INIT_DONE -/

/-- From `s`, in EMIT at the last entry of INIT's list, to `t`, whose last event is DONE(INIT, OK) (R121). -/
def State.initCompletes (s t : State) : Prop :=
  s.phase = .emit ∧ s.curOp = .init ∧ s.seqIdx.toNat + 1 = s.emissionList.length ∧
    t.trace.getLast? = some (.done .init .ok)

/-- An acknowledged write sets INIT_DONE at the end of INIT's list, and nowhere else. -/
theorem State.advanced_one_initDone {s : State} (hp : s.phase = .emit) :
    (s.advanced 1).initDone = s.initDone ∨ (s.advanced 1).initDone = true ∧ s.initCompletes (s.advanced 1) := by
  unfold State.advanced
  by_cases hend : s.seqIdx.toNat + 1 = s.emissionList.length
  · rw [if_pos hend]
    by_cases hop : s.curOp = .init
    · exact .inr ⟨by simp [hop], hp, hop, hend, by simp [hop]⟩
    · exact .inl (by simp [hop])
  · rw [if_neg hend]
    exact .inl rfl

theorem State.sequencerTurn_initDone {s t : State} (hw : s.cfg.wf = true) (h : s.sequencerTurn = .next t) :
    t.initDone = s.initDone ∨ t.initDone = true ∧ s.initCompletes t := by
  obtain ⟨-, hs⟩ | ⟨-, hs⟩ | ⟨-, answer, _, -, hs⟩ | ⟨c, b, -, hs⟩ | ⟨-, -, hs⟩ := s.sequencerTurn_cases <;>
    cases hs.symm.trans h
  · exact .inl rfl
  · exact .inl rfl
  · obtain ⟨-, -, hinit⟩ := s.answerStatus_keeps answer
    exact .inl hinit
  · obtain hb | ⟨hd, -, hb⟩ | ⟨-, _, -, hb⟩ := State.sendIfDue_cases (c := c) (b := b) hw <;> rw [hb]
    · exact .inl rfl
    · exact State.advanced_one_initDone (State.dueEntry_eq_some.mp hd).1
    · exact .inl rfl

theorem State.takeTurn_initDone {s t : State} {turn : Turn} (hw : s.cfg.wf = true) (hne : turn ≠ .reset)
    (h : s.takeTurn turn = .next t) : t.initDone = s.initDone ∨ t.initDone = true ∧ s.initCompletes t := by
  cases turn with
  | host => exact .inl (State.hostTurn_keeps h).2
  | sequencer => exact State.sequencerTurn_initDone hw h
  | reset => exact absurd rfl hne

/-- All that a step can do to INIT_DONE: reset clears it, the completion of INIT sets it, and nothing else writes
it. -/
theorem step_initDone {s t : State} (h : step s = .next t) :
    t.initDone = s.initDone ∨ t.initDone = true ∧ s.initCompletes t ∨
      t.initDone = false ∧ s.turns.head? = some .reset := by
  obtain ⟨-, rfl⟩ | ⟨hw, turn, ts, ht, hturn⟩ := step_next_cases h
  · exact .inl rfl
  · by_cases hr : turn = .reset
    · subst hr
      cases hturn
      exact .inr (.inr ⟨rfl, by simp [ht]⟩)
    · obtain hkept | hset := State.takeTurn_initDone (s := s.withTurns ts) hw hr hturn
      · exact .inl hkept
      · exact .inr (.inl hset)

/-- Settles O48: of the three things a step can do to INIT_DONE, one sets it and one clears it. -/
theorem initDoneRisesOnlyWhenInitCompletes : Obligations.InitDoneRisesOnlyWhenInitCompletes := by
  intro s t h
  obtain hkept | ⟨hset, hinit⟩ | ⟨hclear, hreset⟩ := step_initDone h
  · exact ⟨fun h0 h1 => by simp [hkept, h0] at h1, fun h1 h0 => by simp [hkept, h1] at h0⟩
  · exact ⟨fun _ _ => hinit, fun _ h0 => by simp [hset] at h0⟩
  · exact ⟨fun _ h1 => by simp [hclear] at h1, fun _ _ => hreset⟩

/-! ### The framebuffer -/

/-- Settles O49: the sequencer never writes the framebuffer, and the host's turn only by a writer it attends to. -/
theorem onlyItsWritersChangeTheFramebuffer : Obligations.OnlyItsWritersChangeTheFramebuffer := by
  refine ⟨fun s t h hne => ?_, fun _ _ _ h => (exec_keeps h).2⟩
  obtain ⟨-, rfl⟩ | ⟨-, turn, ts, ht, hturn⟩ := step_next_cases h
  · exact absurd rfl hne
  · cases turn with
    | host => exact .inr ⟨by simp [ht], State.attends_of_hostTurn_fb_ne (s := s.withTurns ts) hturn hne⟩
    | sequencer => exact absurd (State.sequencerTurn_cfg_fb hturn).2 hne
    | reset => exact .inl (by simp [ht])

/-! ### Reset -/

/-- STATUS at reset: every code in it is 0, whatever the configuration. -/
theorem State.resetOf_status (cfg : Config) : (State.resetOf cfg).status = 0 := by
  change State.reset.status = 0
  decide

/-- Settles O1: every element of `State.resetOf` is the value of R29, an unlisted framebuffer byte being 0x00. -/
theorem resetHoldsTheSpecsValues : Obligations.ResetHoldsTheSpecsValues :=
  ⟨rfl, fun cfg => ⟨fun _ => rfl, rfl, rfl, rfl, rfl, rfl, rfl, rfl, rfl, rfl, rfl, State.resetOf_status cfg⟩⟩

theorem State.resetOf_inv {cfg : Config} (h : cfg.wf = true) : (State.resetOf cfg).Inv :=
  State.inv_of_idle h rfl rfl rfl rfl

/-- Settles O2: reset is idle without an operation or a fault, and the default configuration is admitted. -/
theorem resetMeetsTheInvariant : Obligations.ResetMeetsTheInvariant :=
  ⟨State.resetOf_inv (by decide), fun _ => State.resetOf_inv⟩

/-! ### The STATUS port -/

/-- A field of STATUS is cut out of the concatenation of R27 by taking off the fields below it, one append each. -/
theorem State.status_fields (s : State) :
    s.status.extractLsb' 0 3 = s.phase.code ∧ s.status.extractLsb' 3 1 = BitVec.ofBool s.initDone ∧
      s.status.extractLsb' 4 2 = s.lastErr.code ∧ s.status.extractLsb' 6 3 = s.fault.code ∧
      s.status.extractLsb' 9 3 = s.curOp.code ∧ s.status.extractLsb' 12 4 = 0 := by
  unfold State.status
  refine ⟨BitVec.extractLsb'_append_eq_right, ?initDone, ?lastErr, ?fault, ?curOp, ?reserved⟩
  case initDone =>
    rw [BitVec.extractLsb'_append_eq_of_le (by decide)]
    exact BitVec.extractLsb'_append_eq_right
  case lastErr =>
    iterate 2 rw [BitVec.extractLsb'_append_eq_of_le (by decide)]
    exact BitVec.extractLsb'_append_eq_right
  case fault =>
    iterate 3 rw [BitVec.extractLsb'_append_eq_of_le (by decide)]
    exact BitVec.extractLsb'_append_eq_right
  case curOp =>
    iterate 4 rw [BitVec.extractLsb'_append_eq_of_le (by decide)]
    exact BitVec.extractLsb'_append_eq_right
  case reserved =>
    iterate 4 rw [BitVec.extractLsb'_append_eq_of_le (by decide)]
    exact BitVec.extractLsb'_append_eq_left

/-- Settles O52: the fields are those of `State.status_fields`, and the codes are the tables' values. -/
theorem statusPortFields : Obligations.StatusPortFields :=
  ⟨State.status_fields, by decide, by decide, by decide, by decide⟩

end Sys2Proof.Machine

/-! PROOFS. The statements of spec/20_memory.md: the mapper's range and injectivity, what is sent on the bus, and that
the framebuffer steers nothing. -/

namespace Sys2Proof.Machine

/-! ### The mapper -/

/-- A 0-based pixel of the panel is located at its 1-based coordinates (R35). -/
theorem locate_succ {cfg : Config} {c r : Nat} (hc : c < cfg.width) (hr : r < cfg.height) :
    locate cfg (c + 1) (r + 1) = some (indexOf cfg c r, maskOf r) := by
  have hp : onPanel cfg (c + 1) (r + 1) = true := decide_eq_true (by omega)
  simp [locate, hp]

theorem bitOf_eq_mod (r : Nat) : bitOf r = r % 8 := by
  unfold bitOf pageOf
  omega

theorem maskOf_ne_zero (r : Nat) : maskOf r ≠ 0 := by
  have hbit : ∀ k : Fin 8, 1#8 <<< k.val ≠ 0 := by decide
  rw [maskOf, bitOf_eq_mod]
  exact hbit ⟨r % 8, Nat.mod_lt r (by decide)⟩

/-- A mask names its bit. -/
theorem mod_eq_of_maskOf_eq {r r' : Nat} (h : maskOf r = maskOf r') : r % 8 = r' % 8 := by
  have hbit : ∀ k k' : Fin 8, 1#8 <<< k.val = 1#8 <<< k'.val → k = k' := by decide
  rw [maskOf, maskOf, bitOf_eq_mod, bitOf_eq_mod] at h
  exact congrArg Fin.val (hbit ⟨r % 8, Nat.mod_lt r (by decide)⟩ ⟨r' % 8, Nat.mod_lt r' (by decide)⟩ h)

/-- The index is the column and the page in base WIDTH. -/
theorem eq_of_indexOf_eq {cfg : Config} {c r c' r' : Nat} (hc : c < cfg.width) (hc' : c' < cfg.width)
    (h : indexOf cfg c r = indexOf cfg c' r') : c = c' ∧ r / 8 = r' / 8 := by
  have hw : 0 < cfg.width := by omega
  have hmod := congrArg (· % cfg.width) h
  have hdiv := congrArg (· / cfg.width) h
  simp only [indexOf, pageOf, Nat.add_mul_mod_self_left, Nat.mod_eq_of_lt hc, Nat.mod_eq_of_lt hc'] at hmod
  simp only [indexOf, pageOf, Nat.add_mul_div_left _ _ hw, Nat.div_eq_of_lt hc, Nat.div_eq_of_lt hc',
    Nat.zero_add] at hdiv
  exact ⟨hmod, hdiv⟩

/-- Settles O16: the index gives the column and the page, and the mask the row within the page. -/
theorem mapperIsInsideAndInjective : Obligations.MapperIsInsideAndInjective := by
  intro cfg c r c' r' hwf hc hr hc' _
  refine ⟨locate_inside hwf (locate_succ hc hr), maskOf_ne_zero r, fun hindex hmask => ?_⟩
  obtain ⟨hcol, hpage⟩ := eq_of_indexOf_eq hc hc' hindex
  have hbit := mod_eq_of_maskOf_eq hmask
  exact ⟨hcol, by omega⟩

/-! ### What is sent on the bus -/

/-- What `s` may send: a bus write of an entry of its emission list in EMIT, a status read in POLL_REQ, both to
BUS_ADDR, and anything that is no bus transaction (R31, R41). -/
def State.permits (s : State) : PortEvent → Prop
  | .busWrite address c b _ => s.phase = .emit ∧ address = s.cfg.busAddr ∧ (c, b) ∈ s.emissionList
  | .busRead address => s.phase = .pollReq ∧ address = s.cfg.busAddr
  | .response _ | .done _ _ => True

/-- From `s` to `t` only what `s` permits is sent. -/
def State.sendsPermitted (s t : State) : Prop :=
  ∃ events, t.trace = s.trace ++ events ∧ ∀ e ∈ events, s.permits e

theorem State.sendsPermitted_of_trace_eq {s t : State} (h : t.trace = s.trace) : s.sendsPermitted t :=
  ⟨[], by simp [h], by simp⟩

theorem State.sendsPermitted_of_response {s t : State} {r : Response} (h : t.trace = s.trace ++ [.response r]) :
    s.sendsPermitted t :=
  ⟨[.response r], h, by simp [State.permits]⟩

theorem State.sendsPermitted.append {s u t : State} (hsu : s.sendsPermitted u)
    (hut : ∃ events, t.trace = u.trace ++ events ∧ ∀ e ∈ events, s.permits e) : s.sendsPermitted t := by
  obtain ⟨events, hu, hevents⟩ := hsu
  obtain ⟨events', ht, hevents'⟩ := hut
  refine ⟨events ++ events', by rw [ht, hu, List.append_assoc], fun e he => ?_⟩
  exact (List.mem_append.mp he).elim (hevents e) (hevents' e)

/-! #### Requests -/

theorem State.sendsPermitted_attend {s : State} {effect : State → State} (h : s.sendsPermitted (effect s)) :
    s.sendsPermitted (s.attend effect) := by
  obtain ⟨-, hs⟩ | ⟨-, hs⟩ := s.attend_cases effect <;> rw [hs]
  · exact h
  · exact State.sendsPermitted_of_trace_eq rfl

/-- A bus request that is attended to sends its ACK or nothing. -/
theorem State.sendsPermitted_acceptBus (s : State) (op : Op) {latch : State → State}
    (hl : ∀ t, (latch t).trace = t.trace) : s.sendsPermitted (s.acceptBus op latch) := by
  obtain ⟨-, hs⟩ | ⟨-, -, -, hs⟩ | ⟨-, -, -, hs⟩ | ⟨-, -, hs⟩ := s.acceptBus_cases op latch <;> rw [hs]
  · exact State.sendsPermitted_of_trace_eq rfl
  · exact State.sendsPermitted_of_trace_eq rfl
  · exact State.sendsPermitted_of_trace_eq rfl
  · refine State.sendsPermitted_of_response (r := .ack) ?_
    unfold State.startOp
    dsimp only
    split <;> simp [hl]

/-! #### Transactions -/

/-- A bus write sends itself and perhaps DONE, or nothing yet, and while it stays in EMIT the list is the same. -/
theorem State.sendEntry_trace (s : State) (c b : Byte) :
    (∃ events, (s.sendEntry c b).trace = s.trace ++ events ∧
      ∀ e ∈ events, (∃ answer, e = .busWrite s.cfg.busAddr c b answer) ∨ ∃ op r, e = .done op r) ∧
    ((s.sendEntry c b).phase = .emit → (s.sendEntry c b).emissionList = s.emissionList) := by
  unfold State.sendEntry
  cases s.writeAnswers with
  | nil => exact ⟨⟨[], by simp, by simp⟩, fun _ => rfl⟩
  | cons answer rest =>
    cases answer with
    | err => exact ⟨⟨[_, _], List.append_assoc .., by simp⟩, nofun⟩
    | ok =>
      dsimp only
      split
      · exact ⟨⟨[_, _], List.append_assoc .., by simp⟩, nofun⟩
      · exact ⟨⟨[_], rfl, by simp⟩, fun _ => rfl⟩

/-- What a command's writes keep, from its first state `s` on: the events are permitted in `s`, and in EMIT the list
and the address are those of `s`. -/
def State.emitsFrom (s t : State) : Prop :=
  s.sendsPermitted t ∧ t.cfg = s.cfg ∧ (t.phase = .emit → s.phase = .emit ∧ t.emissionList = s.emissionList)

theorem State.emitsFrom_refl (s : State) : s.emitsFrom s :=
  ⟨State.sendsPermitted_of_trace_eq rfl, rfl, fun hp => ⟨hp, rfl⟩⟩

/-- A write is sent only where it is due, and is then an entry of the list. -/
theorem State.emitsFrom.sendIfDue {s t : State} (h : s.emitsFrom t) (c b : Byte) :
    s.emitsFrom (t.sendIfDue c b) := by
  unfold State.sendIfDue
  split
  · next hd =>
    obtain ⟨hsent, hcfg, hemit⟩ := h
    obtain ⟨hp, hlist⟩ := hemit (State.dueEntry_eq_some.mp hd).1
    obtain ⟨⟨events, htrace, hevents⟩, hlist'⟩ := t.sendEntry_trace c b
    refine ⟨hsent.append ⟨events, htrace, fun e he => ?_⟩, (t.sendEntry_cfg_fb c b).1.trans hcfg,
      fun hp' => ⟨hp, (hlist' hp').trans hlist⟩⟩
    obtain ⟨answer, rfl⟩ | ⟨op, r, rfl⟩ := hevents e he
    · exact ⟨hp, by rw [hcfg], hlist ▸ State.dueEntry_mem hd⟩
    · trivial
  · exact h

theorem State.sendsPermitted_sendCommand (s : State) (i : Instr) : s.sendsPermitted (s.sendCommand i) :=
  (State.sendCommand_keeps (P := s.emitsFrom) (fun _ b ht => ht.sendIfDue 0x00 b) i s.emitsFrom_refl).1

theorem State.sendsPermitted_answerStatus (s : State) (answer : ReadAnswer) :
    s.sendsPermitted (s.answerStatus answer) := by
  obtain ⟨r, -, hs⟩ | ⟨hs, -⟩ | hs := s.answerStatus_cases answer <;> rw [hs]
  · exact ⟨[.done s.curOp r], rfl, by simp [State.permits]⟩
  · exact State.sendsPermitted_of_trace_eq rfl
  · exact State.sendsPermitted_of_trace_eq rfl

theorem execBusStatusRead_sendsPermitted (s : State) (status : Byte) :
    ∃ t, execBusStatusRead status s = .next t ∧ s.sendsPermitted t := by
  refine ⟨_, rfl, ?_⟩
  cases hp : s.phase
  case pollReq => exact ⟨[.busRead s.cfg.busAddr], rfl, by simp [State.permits, hp]⟩
  case pollWait =>
    dsimp only
    split
    · exact s.sendsPermitted_answerStatus _
    · exact State.sendsPermitted_of_trace_eq rfl
  case idle | emit | halted => exact State.sendsPermitted_of_trace_eq rfl

/-- Every instruction sends only what the state it runs from permits. -/
theorem exec_sendsPermitted (i : Instr) (s : State) : ∃ t, exec i s = .next t ∧ s.sendsPermitted t := by
  cases i
  case init | pushFrame | setContrast | invert | scrollRight | stopScroll =>
    exact ⟨_, rfl, State.sendsPermitted_attend (s.sendsPermitted_acceptBus _ fun _ => rfl)⟩
  case clear | setPixel | drawLine =>
    exact ⟨_, rfl, State.sendsPermitted_attend (State.sendsPermitted_of_response rfl)⟩
  case fbRead | fbWrite =>
    refine ⟨_, rfl, State.sendsPermitted_attend ?_⟩
    split
    · exact State.sendsPermitted_of_trace_eq rfl
    · exact State.sendsPermitted_of_response rfl
  case busCmdWrite payload | busDataWrite payload => exact ⟨_, rfl, (s.emitsFrom_refl.sendIfDue _ payload).1⟩
  case busStatusRead status => exact execBusStatusRead_sendsPermitted s status
  all_goals exact ⟨_, rfl, s.sendsPermitted_sendCommand _⟩

/-- Settles O41: what an instruction sends is permitted, and the entries of an emission list have the two control
bytes of R55. -/
theorem onlyEmissionEntriesAreSent : Obligations.OnlyEmissionEntriesAreSent := by
  intro i s t h
  obtain ⟨u, hu, events, htrace, hevents⟩ := exec_sendsPermitted i s
  cases hu.symm.trans h
  refine ⟨events, htrace, fun address c b answer he => ?_, fun address he => hevents _ he⟩
  obtain ⟨hp, haddr, hmem⟩ := hevents _ he
  exact ⟨hp, haddr, hmem, State.emissionList_control hmem⟩

/-! ### The sequencer's turn by phase -/

/-- In POLL_WAIT the sequencer handles the answer that has arrived, whichever it is (R112). -/
theorem State.sequencerTurn_of_answer {s : State} {answer : ReadAnswer} {rest : List ReadAnswer}
    (hp : s.phase = .pollWait) (ha : s.readAnswers = answer :: rest) :
    s.sequencerTurn = .next (s.answerStatus answer) := by
  cases answer <;> simp [State.sequencerTurn, exec, execBusStatusRead, hp, ha]

/-- Inside the emission list the sequencer sends the due entry (R120). -/
theorem State.sequencerTurn_of_emit {s : State} (hp : s.phase = .emit)
    (hl : s.seqIdx.toNat < s.emissionList.length) : ∃ c b, s.sequencerTurn = .next (s.sendEntry c b) := by
  obtain ⟨c, b, i, hd, hi⟩ := State.dueEntry_of_emit hp hl
  exact ⟨c, b, by simp [State.sequencerTurn, hp, hd, hi, exec_busWrite hi, State.sendIfDue]⟩

/-! ### The framebuffer steers nothing -/

/-- Two states agree in everything but the framebuffer and what was sent where one is the other with these two
replaced. -/
theorem State.sameButFramebuffer_iff {s t : State} :
    s.sameButFramebuffer t ↔ ∃ fb trace, t = { s with fb := fb, trace := trace } := by
  constructor
  · intro h
    cases s
    cases t
    cases h
    exact ⟨_, _, rfl⟩
  · rintro ⟨_, _, rfl⟩
    rfl

/-- Two branchings on one condition agree where their branches do. -/
theorem State.sameButFramebuffer_ite {p q : Prop} [Decidable p] [Decidable q] {s s' t t' : State} (hpq : p ↔ q)
    (h : s.sameButFramebuffer t) (h' : s'.sameButFramebuffer t') :
    (if p then s else s').sameButFramebuffer (if q then t else t') := by
  by_cases hq : q
  · rwa [if_pos (hpq.mpr hq), if_pos hq]
  · rwa [if_neg fun hp => hq (hpq.mp hp), if_neg hq]

section Same

variable {s t : State} (h : s.sameButFramebuffer t)
include h

theorem State.sameButFramebuffer.cfg : t.cfg = s.cfg := (congrArg State.cfg h).symm

theorem State.sameButFramebuffer.phase : t.phase = s.phase := (congrArg State.phase h).symm

theorem State.sameButFramebuffer.seqIdx : t.seqIdx = s.seqIdx := (congrArg State.seqIdx h).symm

theorem State.sameButFramebuffer.initDone : t.initDone = s.initDone := (congrArg State.initDone h).symm

theorem State.sameButFramebuffer.requests : t.requests = s.requests := (congrArg State.requests h).symm

theorem State.sameButFramebuffer.turns : t.turns = s.turns := (congrArg State.turns h).symm

theorem State.sameButFramebuffer.writeAnswers : t.writeAnswers = s.writeAnswers :=
  (congrArg State.writeAnswers h).symm

theorem State.sameButFramebuffer.readAnswers : t.readAnswers = s.readAnswers :=
  (congrArg State.readAnswers h).symm

theorem State.sameButFramebuffer.withTurns (ts : List Turn) : (s.withTurns ts).sameButFramebuffer (t.withTurns ts) := by
  obtain ⟨_, _, rfl⟩ := State.sameButFramebuffer_iff.mp h
  rfl

/-! #### Requests -/

theorem State.sameButFramebuffer.raise (code : FaultCode) : (s.raise code).sameButFramebuffer (t.raise code) := by
  obtain ⟨_, _, rfl⟩ := State.sameButFramebuffer_iff.mp h
  rfl

/-- The phase alone decides whether a word is attended to. -/
theorem State.sameButFramebuffer.attend {effect : State → State}
    (he : (effect s).sameButFramebuffer (effect t)) : (s.attend effect).sameButFramebuffer (t.attend effect) := by
  unfold State.attend
  rw [h.phase]
  cases s.phase
  case idle | pollReq | pollWait => exact he
  case emit | halted => exact h

theorem State.sameButFramebuffer.startOp (op : Op) {latch : State → State}
    (hl : ∀ u v : State, u.sameButFramebuffer v → (latch u).sameButFramebuffer (latch v)) :
    (s.startOp op latch).sameButFramebuffer (t.startOp op latch) := by
  obtain ⟨fb, trace, rfl⟩ := State.sameButFramebuffer_iff.mp h
  obtain ⟨_, _, hlatch⟩ := State.sameButFramebuffer_iff.mp
    (hl { s with curOp := op, lastErr := .ok }
      { s with fb := fb, trace := trace, curOp := op, lastErr := .ok } rfl)
  unfold State.startOp
  dsimp only
  rw [hlatch]
  split <;> rfl

/-- The checks of R118 read the phase and INIT_DONE. -/
theorem State.sameButFramebuffer.acceptBus (op : Op) {latch : State → State}
    (hl : ∀ u v : State, u.sameButFramebuffer v → (latch u).sameButFramebuffer (latch v)) :
    (s.acceptBus op latch).sameButFramebuffer (t.acceptBus op latch) := by
  have hfault : t.busFault op = s.busFault op := by rw [State.busFault, h.phase, h.initDone, State.busFault]
  unfold State.acceptBus
  rw [hfault]
  cases s.busFault op
  case none => exact h.startOp op hl
  case illegalRequest | busOverlap | notInitialized | reinit => exact h.raise _

omit h in
/-- A request is an effect that is attended to, and the framebuffer does not steer the effect. -/
theorem exec_request_sameButFramebuffer {i : Instr} {w : Hrw} (hi : encode i = .request w) :
    ∃ effect : State → State, (∀ s, exec i s = .next (s.attend effect)) ∧
      ∀ s t, s.sameButFramebuffer t → (effect s).sameButFramebuffer (effect t) := by
  cases i
  case init | pushFrame | stopScroll => exact ⟨_, fun _ => rfl, fun s t h => h.acceptBus _ fun _ _ => id⟩
  case setContrast | invert | scrollRight =>
    refine ⟨_, fun _ => rfl, fun s t h => h.acceptBus _ fun u v huv => ?_⟩
    obtain ⟨_, _, rfl⟩ := State.sameButFramebuffer_iff.mp huv
    rfl
  case clear | setPixel | drawLine =>
    refine ⟨_, fun _ => rfl, fun s t h => ?_⟩
    obtain ⟨_, _, rfl⟩ := State.sameButFramebuffer_iff.mp h
    rfl
  case fbRead | fbWrite =>
    refine ⟨_, fun _ => rfl, fun s t h => ?_⟩
    obtain ⟨_, _, rfl⟩ := State.sameButFramebuffer_iff.mp h
    exact State.sameButFramebuffer_ite Iff.rfl rfl rfl
  all_goals cases hi

/-- The word on the port is the same, and so are its decoding and its effect. -/
theorem State.sameButFramebuffer.hostTurn {s' : State} (hs : s.hostTurn = .next s') :
    ∃ t', t.hostTurn = .next t' ∧ s'.sameButFramebuffer t' := by
  obtain ⟨hr, hturn⟩ | ⟨w, ws, e, hr, hd, hturn⟩ | ⟨w, ws, i, hr, hd, hturn⟩ := s.hostTurn_cases
  · cases hturn.symm.trans hs
    exact ⟨t, by simp [State.hostTurn, h.requests, hr], h⟩
  · cases hturn.symm.trans hs
    exact ⟨t.attend fun u => u.raise .illegalRequest, by simp [State.hostTurn, h.requests, hr, hd],
      h.attend (h.raise _)⟩
  · obtain ⟨v, hv⟩ := encode_eq_request_of_decodeRequest hd
    obtain ⟨effect, hexec, heffect⟩ := exec_request_sameButFramebuffer hv
    cases (hturn.trans (hexec s)).symm.trans hs
    exact ⟨t.attend effect, by simp [State.hostTurn, h.requests, hr, hd, hexec], h.attend (heffect s t h)⟩

/-! #### The sequencer -/

/-- The framebuffer fills entries of a push, but does not change their number. -/
theorem State.sameButFramebuffer.emissionList_length : t.emissionList.length = s.emissionList.length := by
  obtain ⟨_, _, rfl⟩ := State.sameButFramebuffer_iff.mp h
  rw [State.emissionList_length, State.emissionList_length]

/-- Whatever bytes the two write, the answer and the number of entries decide what becomes of the operation. -/
theorem State.sameButFramebuffer.sendEntry (c b c' b' : Byte) :
    (s.sendEntry c b).sameButFramebuffer (t.sendEntry c' b') := by
  have hlen := h.emissionList_length
  unfold State.sendEntry
  rw [h.writeAnswers]
  cases s.writeAnswers with
  | nil => exact h
  | cons answer rest =>
    obtain ⟨_, _, rfl⟩ := State.sameButFramebuffer_iff.mp h
    cases answer with
    | err => rfl
    | ok => exact State.sameButFramebuffer_ite (hlen ▸ Iff.rfl) rfl rfl

theorem State.sameButFramebuffer.answerStatus (answer : ReadAnswer) :
    (s.answerStatus answer).sameButFramebuffer (t.answerStatus answer) := by
  obtain ⟨_, _, rfl⟩ := State.sameButFramebuffer_iff.mp h
  cases answer with
  | err => rfl
  | ok status => exact State.sameButFramebuffer_ite Iff.rfl (State.sameButFramebuffer_ite Iff.rfl rfl rfl) rfl

theorem State.sameButFramebuffer.sequencerTurn {s' : State} (hs : s.sequencerTurn = .next s') :
    ∃ t', t.sequencerTurn = .next t' ∧ s'.sameButFramebuffer t' := by
  obtain ⟨hp, hturn⟩ | ⟨hp, hturn⟩ | ⟨hp, answer, rest, ha, hturn⟩ | ⟨c, b, hd, hturn⟩ | ⟨-, -, hturn⟩ :=
    s.sequencerTurn_cases <;> cases hturn.symm.trans hs
  · refine ⟨t, ?_, h⟩
    obtain hp | hp | ⟨hp, ha⟩ := hp
    · simp [State.sequencerTurn, h.phase, hp]
    · simp [State.sequencerTurn, h.phase, hp]
    · simp [State.sequencerTurn, h.phase, h.readAnswers, hp, ha]
  · refine ⟨t.requestStatus, by simp [State.sequencerTurn, h.phase, hp], ?_⟩
    obtain ⟨_, _, rfl⟩ := State.sameButFramebuffer_iff.mp h
    rfl
  · exact ⟨_, State.sequencerTurn_of_answer (h.phase.trans hp) (h.readAnswers.trans ha), h.answerStatus answer⟩
  · have hidx : t.seqIdx.toNat < t.emissionList.length := by
      rw [h.emissionList_length, h.seqIdx]
      exact State.dueEntry_lt hd
    obtain ⟨c', b', hsend⟩ := State.sequencerTurn_of_emit (h.phase.trans (State.dueEntry_eq_some.mp hd).1) hidx
    rw [State.sendIfDue, if_pos hd]
    exact ⟨_, hsend, h.sendEntry c b c' b'⟩

/-! #### Turns -/

theorem State.sameButFramebuffer.takeTurn {turn : Turn} {s' : State} (hs : s.takeTurn turn = .next s') :
    ∃ t', t.takeTurn turn = .next t' ∧ s'.sameButFramebuffer t' := by
  cases turn with
  | host => exact h.hostTurn hs
  | sequencer => exact h.sequencerTurn hs
  | reset =>
    cases hs
    obtain ⟨_, _, rfl⟩ := State.sameButFramebuffer_iff.mp h
    exact ⟨_, rfl, rfl⟩

end Same

/-- Settles O53: the two states have the same turn at the head, and each agent's turn keeps the agreement. -/
theorem framebufferSteersNothing : Obligations.FramebufferSteersNothing := by
  intro s t s' h hs
  obtain ⟨hw, hstep⟩ | ⟨hw, hnil, hstep⟩ | ⟨hw, turn, ts, hcons, hstep⟩ := step_cases s
  · cases hstep.symm.trans hs
  · cases hstep.symm.trans hs
    exact ⟨t, by simp [step, h.cfg, hw, h.turns, hnil], h⟩
  · rw [step_of_turn (h.cfg ▸ hw) (h.turns.trans hcons)]
    exact (h.withTurns ts).takeTurn (hstep.symm.trans hs)

end Sys2Proof.Machine

/-! PROOFS. The statements of spec/30_encoding.md: the encoder and the decoder are inverse, which words are legal and
what an illegal one does, the words of the assembler, the response to a request, and the bytes of the commands. -/

namespace Sys2Proof.Machine

/-! ### The operands and their fields -/

@[simp] theorem ifZero_eq_ok {z : Bool} {i j : Instr} : ifZero z i = .ok j ↔ z = true ∧ i = j := by
  cases z <;> simp [ifZero]

@[simp] theorem ofBool_flag (f : BitVec 1) : BitVec.ofBool (f == 1#1) = f := by
  revert f; decide

@[simp] theorem flag_ofBool (b : Bool) : (BitVec.ofBool b == 1#1) = b := by
  cases b <;> rfl

/-- An index survives its field (R51). -/
theorem toNat_ofNat_of_fitsIndex {k : Nat} (h : fitsIndex k = true) : (BitVec.ofNat 12 k).toNat = k := by
  rw [BitVec.toNat_ofNat, Nat.mod_eq_of_lt (of_decide_eq_true h)]

theorem fitsIndex_toNat (v : BitVec 12) : fitsIndex v.toNat = true := decide_eq_true v.isLt

/-! ### Decoding what is encoded -/

/-- `OP` and a command's opcode select the row they were taken from, and each operand survives its field. -/
theorem decode_encode {i : Instr} (h : i.wf = true) : decode (encode i) = .ok i := by
  cases i
  case init | clear | pushFrame | stopScroll | setContrast | invert | scrollRight =>
    simp [encode, decode_request, decodeFields]
  case setPixel x y color =>
    obtain ⟨hx, hy⟩ := Bool.and_eq_true_iff.mp h
    simp [encode, decode_request, decodeFields, hx, hy]
  case drawLine x0 y0 x1 y1 =>
    simp only [Instr.wf, Bool.and_eq_true] at h
    obtain ⟨⟨⟨hx0, hy0⟩, hx1⟩, hy1⟩ := h
    simp [encode, decode_request, decodeFields, hx0, hy0, hx1, hy1]
  case fbRead k | fbWrite k _ => simp [encode, decode_request, decodeFields, toNat_ofNat_of_fitsIndex h]
  case setStartLine line =>
    revert line
    decide
  all_goals rfl

/-- Settles O6: `decode_encode`. -/
theorem decodeOfEncodeIsTheInstruction : Obligations.DecodeOfEncodeIsTheInstruction := fun _ => decode_encode

/-! ### Encoding what is decoded -/

/-- Fields that decode are those the encoder fills: `OP` is the request's, a must-be-zero field is 0, and every other
field survives its operand. -/
theorem encode_of_decodeFields {x : HrwFields} {i : Instr} (h : decodeFields x = .ok i) :
    i.wf = true ∧ encode i = .request (hrwOfFields x) := by
  obtain ⟨op, a, b, c, d, rsv, f⟩ := x
  unfold decodeFields at h
  split at h
  · cases h
  · next hrsv =>
    obtain rfl : rsv = 0 := not_not.mp hrsv
    dsimp only at h
    split at h
    case h_12 => cases h
    all_goals
      next hop =>
      obtain rfl := (BitVec.toNat_eq_nat.mp hop).2
      obtain ⟨hz, rfl⟩ := ifZero_eq_ok.mp h
      simp only [Bool.and_eq_true, beq_iff_eq] at hz
      simp [encode, request, Instr.wf, hz, fitsIndex_toNat, fitsCoord_coordOfField, setWidth_lowByte]

/-- Settles O7: a word is put together from its fields, and these are the request's. -/
theorem legalWordIsItsRequestsEncoding : Obligations.LegalWordIsItsRequestsEncoding := by
  intro w i h
  simpa using encode_of_decodeFields h

/-! ### The legal words -/

/-- The high nibble of `A` or `B` is 0 exactly if the field holds a byte (R53). -/
theorem highNibble_eq_zero_iff (v : BitVec 12) : highNibble v = 0 ↔ v.toNat < 256 := by
  have := v.isLt
  rw [highNibble, ← BitVec.toNat_inj, BitVec.extractLsb'_toNat, Nat.shiftRight_eq_div_pow]
  simp only [BitVec.ofNat_eq_ofNat, BitVec.toNat_ofNat]
  omega

/-- R53: the legal words are those whose `RSV` and must-be-zero fields are 0, `OP` by `OP`. -/
theorem exists_decodeRequest_iff (w : Hrw) :
    (∃ i, decodeRequest w = .ok i) ↔ w.extractLsb' 1 11 = 0 ∧ mustBeZeroHolds w := by
  unfold decodeRequest decodeFields mustBeZeroHolds
  change _ ↔ (hrwFields w).rsv = 0 ∧ _
  by_cases hrsv : (hrwFields w).rsv = 0
  · rw [if_neg (not_not.mpr hrsv), and_iff_right hrsv]
    dsimp only [hrwFields]
    have hop := (w.extractLsb' 60 4).isLt
    generalize (w.extractLsb' 60 4).toNat = op, w.extractLsb' 48 12 = a, w.extractLsb' 36 12 = b,
      w.extractLsb' 24 12 = c, w.extractLsb' 12 12 = d, w.extractLsb' 0 1 = f at hop ⊢
    interval_cases op <;> simp [← highNibble_eq_zero_iff, and_assoc]
  · rw [if_pos hrsv]
    exact iff_of_false nofun fun h => hrsv h.1

/-- A word is legal or illegal. -/
theorem exists_error_iff (w : Hrw) : (∃ e, decodeRequest w = .error e) ↔ ¬ ∃ i, decodeRequest w = .ok i := by
  cases decodeRequest w <;> simp

/-- Presenting an illegal word, where words are attended to, records the fault (R116, R129). -/
theorem step_of_illegal {s : State} {w : Hrw} {ws : List Hrw} {ts : List Turn} {e : DecodeError}
    (hw : s.cfg.wf = true) (ha : s.attends) (ht : s.turns = .host :: ts) (hr : s.requests = w :: ws)
    (hd : decodeRequest w = .error e) : step s = .next ((s.withTurns ts).raise .illegalRequest) := by
  have hattends : (s.withTurns ts).attends := ha
  rw [step_of_turn hw ht, State.takeTurn, State.hostTurn, State.withTurns_requests, hr]
  simp only [hd, State.attend_of_attends _ hattends]

/-- Settles O9: a word is illegal where it is not legal, and presenting it raises ILLEGAL_REQUEST. -/
theorem illegalWordsFault : Obligations.IllegalWordsFault := by
  refine ⟨fun w => ?_, ⟨.reservedOp, rfl⟩, fun s w ws ts e hw ha ht hr hd => ?_⟩
  · rw [exists_error_iff, exists_decodeRequest_iff, not_and_or]
  · exact ⟨_, step_of_illegal hw ha ht hr hd, State.raise_faulted _ _⟩

/-! ### The rows of the opcode table -/

/-- The word of a request lies in the request's row. -/
theorem exists_row_of_encode {i : Instr} {w : Hrw} (h : encode i = .request w) :
    ∃ row ∈ requestRows, w &&& row.1 = row.2 := by
  have hbits : Laws.TableRow.bits (encode i) = w := by rw [h]; rfl
  refine ⟨(Laws.TableRow.row i).2, ?_, hbits ▸ ?_⟩
  · cases i
    case init | clear | setPixel | drawLine | pushFrame | setContrast | invert | scrollRight | stopScroll | fbRead |
        fbWrite => simp [Laws.TableRow.row, requestRows]
    all_goals cases h
  · cases i
    case init => exact Laws.TableRow.init.2
    case clear => exact Laws.TableRow.clear.2
    case setPixel x y color => exact (Laws.TableRow.setPixel x y color).2
    case drawLine x0 y0 x1 y1 => exact (Laws.TableRow.drawLine x0 y0 x1 y1).2
    case pushFrame => exact Laws.TableRow.pushFrame.2
    case setContrast dim => exact (Laws.TableRow.setContrast dim).2
    case invert on => exact (Laws.TableRow.invert on).2
    case scrollRight start stop => exact (Laws.TableRow.scrollRight start stop).2
    case stopScroll => exact Laws.TableRow.stopScroll.2
    case fbRead index => exact (Laws.TableRow.fbRead index).2
    case fbWrite index value => exact (Laws.TableRow.fbWrite index value).2
    all_goals cases h

/-- A word under a mask, field by field. -/
theorem extractLsb'_of_and_eq {w m v : Hrw} (h : w &&& m = v) (k n : Nat) :
    w.extractLsb' k n &&& m.extractLsb' k n = v.extractLsb' k n := by
  rw [← h, BitVec.extractLsb'_and]

/-- A field whose high nibble the mask finds 0 holds a byte. -/
theorem toNat_lt_of_and_eq_zero {v : BitVec 12} (h : v &&& 0xF00#12 = 0#12) : v.toNat < 256 := by
  rw [← highNibble_eq_zero_iff]
  calc highNibble v = highNibble v &&& highNibble 0xF00#12 := BitVec.and_allOnes.symm
    _ = highNibble (v &&& 0xF00#12) := BitVec.extractLsb'_and.symm
    _ = 0 := by rw [h]; rfl

/-- A word of a row has the row's `OP`, and 0 where the row's mask is set below it: each field is read off under the
mask's field, and a field of ones masks nothing. -/
theorem mustBeZeroHolds_of_row {w : Hrw} {row : Hrw × Hrw} (hr : row ∈ requestRows) (h : w &&& row.1 = row.2) :
    w.extractLsb' 1 11 = 0 ∧ mustBeZeroHolds w := by
  have full1 (u : BitVec 1) : u &&& 0x1#1 = u := BitVec.and_allOnes
  have full4 (u : BitVec 4) : u &&& 0xF#4 = u := BitVec.and_allOnes
  have full11 (u : BitVec 11) : u &&& 0x7FF#11 = u := BitVec.and_allOnes
  have full12 (u : BitVec 12) : u &&& 0xFFF#12 = u := BitVec.and_allOnes
  have hop := extractLsb'_of_and_eq h 60 4
  have ha := extractLsb'_of_and_eq h 48 12
  have hb := extractLsb'_of_and_eq h 36 12
  have hc := extractLsb'_of_and_eq h 24 12
  have hd := extractLsb'_of_and_eq h 12 12
  have hrsv := extractLsb'_of_and_eq h 1 11
  have hf := extractLsb'_of_and_eq h 0 1
  clear h
  simp only [mustBeZeroHolds]
  generalize w.extractLsb' 60 4 = op, w.extractLsb' 48 12 = a, w.extractLsb' 36 12 = b, w.extractLsb' 24 12 = c,
    w.extractLsb' 12 12 = d, w.extractLsb' 1 11 = rsv, w.extractLsb' 0 1 = f at *
  simp only [requestRows, List.mem_cons, List.not_mem_nil, or_false] at hr
  rcases hr with rfl | rfl | rfl | rfl | rfl | rfl | rfl | rfl | rfl | rfl | rfl <;>
    simp_all [toNat_lt_of_and_eq_zero]

/-- Settles O8: a legal word is its request's encoding and so lies in the request's row, and a word of a row has the
must-be-zero fields of its `OP` at 0. -/
theorem legalWordsAreTheTablesRows : Obligations.LegalWordsAreTheTablesRows := by
  intro w
  constructor
  · rintro ⟨i, hi⟩
    exact exists_row_of_encode (legalWordIsItsRequestsEncoding w i hi).2
  · rintro ⟨row, hr, h⟩
    exact (exists_decodeRequest_iff w).mpr (mustBeZeroHolds_of_row hr h)

/-! ### The words of the assembler -/

/-- The word of a request decodes to the request. -/
theorem decodeRequest_of_requestWord {i : Instr} {w : Hrw} (h : requestWord i = some w) :
    decodeRequest w = .ok i := by
  unfold requestWord at h
  split at h
  case h_1 v hv =>
    obtain ⟨hwf, hw⟩ := Option.ite_none_right_eq_some.mp h
    cases hw
    exact (congrArg decode hv).symm.trans (decode_encode hwf)
  all_goals cases h

/-- The words of requests decode to them, in order. -/
theorem map_decodeRequest_of_mapM {is : List Instr} {ws : List Hrw} (h : is.mapM requestWord = some ws) :
    ws.map decodeRequest = is.map .ok := by
  induction is generalizing ws with
  | nil => cases h; rfl
  | cons i is ih =>
    simp only [List.mapM_cons, Option.bind_eq_bind, Option.bind_eq_some_iff, Option.pure_def, Option.some.injEq] at h
    obtain ⟨v, hv, vs, hvs, rfl⟩ := h
    rw [List.map_cons, List.map_cons, decodeRequest_of_requestWord hv, ih hvs]

/-- Settles O11: a line's words are those of the requests it expands to. -/
theorem assembledWordsDecodeToTheExpansion : Obligations.AssembledWordsDecodeToTheExpansion := by
  intro cfg line ws h
  obtain ⟨is, his, hws⟩ := Option.bind_eq_some_iff.mp h
  exact ⟨is, his, map_decodeRequest_of_mapM hws⟩

/-! ### The response to a request -/

/-- From `s` to `t` a request is answered: by the response `r`, FAULT staying, or by a fault and no response (R54,
R129). -/
def State.answered (s t : State) (r : Response) : Prop :=
  t.fault = s.fault ∧ t.trace = s.trace ++ [.response r] ∨ t.fault ≠ .none ∧ t.trace = s.trace

theorem State.answered_raise (s : State) {code : FaultCode} (hc : code ≠ .none) (r : Response) :
    s.answered (s.raise code) r :=
  .inr ⟨hc, rfl⟩

/-- A bus request is answered by ACK where its operation starts, and not where one of the checks of R118 fails. -/
theorem State.answered_acceptBus (s : State) (op : Op) {latch : State → State}
    (hl : ∀ t, ∃ f a b, latch t = { t with argF := f, argStart := a, argStop := b }) :
    s.answered (s.acceptBus op latch) .ack := by
  obtain ⟨-, hs⟩ | ⟨-, -, -, hs⟩ | ⟨-, -, -, hs⟩ | ⟨-, -, hs⟩ := s.acceptBus_cases op latch <;> rw [hs]
  · exact s.answered_raise (by decide) _
  · exact s.answered_raise (by decide) _
  · exact s.answered_raise (by decide) _
  · obtain ⟨f, a, b, hlatch⟩ := hl { s with curOp := op, lastErr := .ok }
    left
    unfold State.startOp
    rw [hlatch]
    dsimp only
    split <;> exact ⟨rfl, rfl⟩

/-- R54: FBREAD is answered by the byte it reads, every other request by ACK. -/
def responseTo (s : State) : Instr → Response
  | .fbRead index => .rdata (Memory.read s.fb index)
  | _ => .ack

/-- A request is an effect that is attended to, which answers it with its response or raises a fault. -/
theorem exec_request_answered {i : Instr} {w : Hrw} (h : encode i = .request w) :
    ∃ effect : State → State, (∀ s, exec i s = .next (s.attend effect)) ∧
      ∀ s : State, s.answered (effect s) (responseTo s i) := by
  cases i
  case init | pushFrame | setContrast | invert | scrollRight | stopScroll =>
    exact ⟨_, fun _ => rfl, fun s => s.answered_acceptBus _ fun _ => ⟨_, _, _, rfl⟩⟩
  case clear | setPixel | drawLine => exact ⟨_, fun _ => rfl, fun s => .inl ⟨rfl, rfl⟩⟩
  case fbRead | fbWrite =>
    refine ⟨_, fun _ => rfl, fun s => ?_⟩
    split
    · exact s.answered_raise (by decide) _
    · exact .inl ⟨rfl, rfl⟩
  all_goals cases h

theorem responseTo_eq_rdata_iff (s : State) (i : Instr) : (∃ v, responseTo s i = .rdata v) ↔ ∃ k, i = .fbRead k := by
  cases i <;> simp [responseTo]

/-- Settles O28: the word is attended to, and its effect answers it with its response or with a fault. -/
theorem acceptedRequestGetsOneResponse : Obligations.AcceptedRequestGetsOneResponse := by
  intro s t w i ha hf hd ht
  obtain ⟨v, hv⟩ := encode_eq_request_of_decodeRequest hd
  obtain ⟨effect, hexec, hanswered⟩ := exec_request_answered hv
  cases (State.attend_of_attends effect ha ▸ hexec s).symm.trans ht
  obtain ⟨hfault, htrace⟩ | ⟨hfault, htrace⟩ := hanswered s
  · exact ⟨fun _ => ⟨_, htrace, responseTo_eq_rdata_iff s i⟩, fun hne => absurd (hfault.trans hf) hne⟩
  · exact ⟨fun h => absurd h hfault, fun _ => htrace⟩

/-! ### Words and bytes written out -/

/-- Settles O10: by running the decoder. -/
theorem writtenOutBitsDecode : Obligations.WrittenOutBitsDecode :=
  ⟨rfl, rfl, rfl, rfl, rfl, rfl, rfl, rfl, rfl, rfl, rfl, rfl⟩

/-! ### The bytes of the commands -/

theorem State.commandBytes_setContrastLevel_of_init {s : State} (h : s.curOp = .init) :
    s.commandBytes .setContrastLevel = [s.cfg.opc.setContrast, s.cfg.initOperands.contrast] := by
  simp [State.commandBytes, h]

theorem State.commandBytes_setContrastLevel_of_contrast {s : State} (h : s.curOp = .contrast) :
    s.commandBytes .setContrastLevel =
      [s.cfg.opc.setContrast, if s.argF then s.cfg.contrastDim else s.cfg.contrastBright] := by
  simp [State.commandBytes, contrastOperand, h]

/-- Settles O36: each command's bytes are the arm of `State.commandBytes`, where only SET_CONTRAST looks at the
operation and RIGHT_HORIZONTAL_SCROLL at SCROLL_FORM; the default bytes are the same arms at the default parameters. -/
theorem commandBytesAreTheirRules : Obligations.CommandBytesAreTheirRules := by
  constructor
  · intro s
    refine ⟨rfl, rfl, rfl, rfl, rfl, rfl, rfl, rfl, rfl, rfl, State.commandBytes_setContrastLevel_of_init,
      State.commandBytes_setContrastLevel_of_contrast, rfl, rfl, rfl, rfl, rfl, rfl, rfl, rfl, ?ssd1306, ?minimal, rfl,
      rfl⟩
    case ssd1306 => exact fun h => congrArg _ (scrollOperands_of_ssd1306 h _ _)
    case minimal => exact fun h => congrArg _ (scrollOperands_of_minimal h _ _)
  · intro s hc
    cases s
    cases hc
    refine ⟨rfl, rfl, rfl, rfl, ?startLine, rfl, rfl, rfl, rfl, rfl, State.commandBytes_setContrastLevel_of_init,
      State.commandBytes_setContrastLevel_of_contrast, rfl, rfl, rfl, rfl, rfl, rfl, rfl, rfl, rfl, rfl, rfl⟩
    case startLine => exact congrArg (fun b : Byte => [b]) BitVec.or_zero

/-! ### What is not due -/

/-- A command runs as the send of its bytes, where it is due. -/
theorem exec_of_decodeCommand {opcode : Byte} {i : Instr} (h : decodeCommand opcode = .ok i) (s : State) :
    exec i s = .next (s.sendCommand i) := by
  unfold decodeCommand at h
  split at h
  · cases h
    rfl
  · split at h <;> cases h <;> rfl

/-- A command that the operation has not come to does nothing (log entry 4). -/
theorem State.sendCommand_of_not_due {s : State} {i : Instr} (h : s.dueCommand ≠ some i) : s.sendCommand i = s :=
  if_neg fun hd => h hd.2

/-- No operation sends a start line other than 0 (R80). -/
theorem State.line_eq_zero_of_due {s : State} {line : BitVec 6} (h : s.dueCommand = some (.setStartLine line)) :
    line = 0 := by
  have hmem := State.dueCommand_mem h
  unfold State.commands at hmem
  cases hop : s.curOp <;> rw [hop] at hmem
  case init => simpa using hmem
  case invert => cases hf : s.argF <;> simp [hf] at hmem
  all_goals simp at hmem

/-- Settles O40: a bus write and a command are sent where they are due, and a start line other than 0 never is. -/
theorem whatIsNotDueIsNotSent : Obligations.WhatIsNotDueIsNotSent := by
  refine ⟨fun s c b i hi hd => ?_, fun s opcode i hi hd => ?_, fun s line hline => ?_⟩
  · rw [exec_busWrite hi, State.sendIfDue, if_neg hd]
  · rw [exec_of_decodeCommand hi, State.sendCommand_of_not_due hd]
  · exact congrArg _ (State.sendCommand_of_not_due fun hd => hline (State.line_eq_zero_of_due hd))

end Sys2Proof.Machine

/-! PROOFS. The statements of spec/40_framebuffer.md: what each framebuffer request does where words are attended to,
and that a loaded buffer reads back. -/

namespace Sys2Proof.Machine

/-! ### The requests where words are attended to -/

section Attended

variable {s : State} (ha : s.attends)
include ha

theorem exec_setPixel_of_attends (x y : Int) (color : Color) :
    exec (.setPixel x y color) s = .next ({ s with fb := paint s.cfg s.fb x y color }.respond .ack) :=
  congrArg Host.Outcome.next (State.attend_of_attends _ ha)

theorem exec_clear_of_attends : exec .clear s = .next ({ s with fb := [] }.respond .ack) :=
  congrArg Host.Outcome.next (State.attend_of_attends _ ha)

theorem exec_fbRead_of_lt {index : Nat} (hi : index < s.cfg.fbLen) :
    exec (.fbRead index) s = .next (s.respond (.rdata (Memory.read s.fb index))) :=
  congrArg Host.Outcome.next ((State.attend_of_attends _ ha).trans (if_neg (Nat.not_le.mpr hi)))

theorem exec_fbRead_of_le {index : Nat} (hi : s.cfg.fbLen ≤ index) :
    exec (.fbRead index) s = .next (s.raise .illegalRequest) :=
  congrArg Host.Outcome.next ((State.attend_of_attends _ ha).trans (if_pos hi))

theorem exec_fbWrite_of_lt {index : Nat} (value : Byte) (hi : index < s.cfg.fbLen) :
    exec (.fbWrite index value) s = .next ({ s with fb := Memory.write s.fb index value }.respond .ack) :=
  congrArg Host.Outcome.next ((State.attend_of_attends _ ha).trans (if_neg (Nat.not_le.mpr hi)))

theorem exec_fbWrite_of_le {index : Nat} (value : Byte) (hi : s.cfg.fbLen ≤ index) :
    exec (.fbWrite index value) s = .next (s.raise .illegalRequest) :=
  congrArg Host.Outcome.next ((State.attend_of_attends _ ha).trans (if_pos hi))

end Attended

/-! ### A byte of the framebuffer -/

theorem Memory.read_write_same {length a : Nat} {m : Memory} (v : Byte) (h : Memory.wf length m = true) :
    Memory.read (Memory.write m a v) a = v := by
  rw [Memory.read_write v a h, if_pos rfl]

theorem Memory.read_write_of_ne {length a b : Nat} {m : Memory} (v : Byte) (h : Memory.wf length m = true)
    (hb : b ≠ a) : Memory.read (Memory.write m a v) b = Memory.read m b := by
  rw [Memory.read_write v b h, if_neg hb]

/-- Settles O17: CLEAR stores the empty list, where every byte is unlisted. -/
theorem clearZeroesTheFramebuffer : Obligations.ClearZeroesTheFramebuffer := fun _ ha =>
  ⟨[], exec_clear_of_attends ha, fun _ => rfl⟩

/-- Settles O18: `exec_fbRead_of_lt` and `exec_fbRead_of_le`. -/
theorem fbReadAnswersTheByte : Obligations.FbReadAnswersTheByte := by
  intro s index ha
  split
  case isTrue hi => exact exec_fbRead_of_lt ha hi
  case isFalse hi => exact ⟨_, exec_fbRead_of_le ha (Nat.not_lt.mp hi), s.raise_faulted _⟩

/-- Settles O19: below FB_LEN one byte is written, and at or past it the fault is raised. -/
theorem fbWriteStoresTheByte : Obligations.FbWriteStoresTheByte := by
  intro s index value hfb ha
  split
  case isTrue hi =>
    exact ⟨_, exec_fbWrite_of_lt ha value hi, Memory.read_write_same value hfb,
      fun _ => Memory.read_write_of_ne value hfb⟩
  case isFalse hi => exact ⟨_, exec_fbWrite_of_le ha value (Nat.not_lt.mp hi), s.raise_faulted _⟩

/-! ### A pixel -/

/-- The byte `b` with the bits of the mask `m` set or cleared (R33, R62). -/
def paintedByte : Color → Byte → Byte → Byte
  | .on, m, b => b ||| m
  | .off, m, b => b &&& ~~~m

/-- On the panel the mapper gives the byte and the bit of R32. -/
theorem locate_of_mem_panel {cfg : Config} {x y : Int} (h : 1 ≤ x ∧ x ≤ cfg.width ∧ 1 ≤ y ∧ y ≤ cfg.height) :
    locate cfg x y =
      some ((x - 1).toNat + cfg.width * ((y - 1).toNat / 8), 1#8 <<< ((y - 1).toNat % 8)) := by
  rw [← bitOf_eq_mod]
  exact if_pos (decide_eq_true h)

theorem locate_of_not_mem_panel {cfg : Config} {x y : Int}
    (h : ¬ (1 ≤ x ∧ x ≤ cfg.width ∧ 1 ≤ y ∧ y ≤ cfg.height)) : locate cfg x y = none :=
  if_neg fun hp => h (of_decide_eq_true hp)

theorem paint_of_locate_eq_none {cfg : Config} {x y : Int} (fb : Memory) (color : Color)
    (h : locate cfg x y = none) : paint cfg fb x y color = fb := by
  simp [paint, h]

/-- A located pixel is painted by a write to its byte. -/
theorem paint_of_locate_eq_some {cfg : Config} {x y : Int} {i : Nat} {m : Byte} (fb : Memory) (color : Color)
    (h : locate cfg x y = some (i, m)) :
    paint cfg fb x y color = Memory.write fb i (paintedByte color m (Memory.read fb i)) := by
  cases color <;> simp [paint, h, paintedByte]

/-- Settles O15: the pixel's byte is written with the one bit set or cleared, and off the panel nothing is. -/
theorem setPixelChangesOneBit : Obligations.SetPixelChangesOneBit := by
  intro s x y color _ hfb ha
  refine ⟨_, exec_setPixel_of_attends ha x y color, ?_⟩
  split
  case isTrue hp =>
    rw [paint_of_locate_eq_some s.fb color (locate_of_mem_panel hp)]
    refine ⟨(Memory.read_write_same _ hfb).trans ?_, fun _ => Memory.read_write_of_ne _ hfb⟩
    cases color <;> rfl
  case isFalse hp => exact paint_of_locate_eq_none s.fb color (locate_of_not_mem_panel hp)

/-! ### A whole buffer -/

/-- After a request the rest run from its next state. -/
theorem execAll_cons {i : Instr} {s t : State} (is : List Instr) (h : exec i s = .next t) :
    execAll (i :: is) s = execAll is t := by
  rw [execAll, h]

/-- Consecutive bytes written from index `n` stand at their indices, and the bytes below `n` stay. -/
theorem execAll_fbWrites (bytes : List Byte) (n : Nat) {s : State} (hfb : Memory.wf s.cfg.fbLen s.fb = true)
    (ha : s.attends) (hlen : n + bytes.length ≤ s.cfg.fbLen) :
    ∃ t, execAll ((bytes.zipIdx n).map fun p => .fbWrite p.2 p.1) s = .next t ∧ t.cfg = s.cfg ∧ t.attends ∧
      (∀ k < n, Memory.read t.fb k = Memory.read s.fb k) ∧
      ∀ k b, bytes[k]? = some b → Memory.read t.fb (n + k) = b := by
  induction bytes generalizing s n with
  | nil => exact ⟨s, rfl, rfl, ha, fun _ _ => rfl, nofun⟩
  | cons v bytes ih =>
    rw [List.length_cons] at hlen
    have hn : n < s.cfg.fbLen := by omega
    obtain ⟨t, ht, hcfg, hat, hbelow, hbytes⟩ :=
      ih (n + 1) (s := { s with fb := Memory.write s.fb n v }.respond .ack) (Memory.write_wf v hfb hn) ha
        (show n + 1 + bytes.length ≤ s.cfg.fbLen by omega)
    refine ⟨t, (execAll_cons _ (exec_fbWrite_of_lt ha v hn)).trans ht, hcfg, hat, fun k hk => ?_, fun k b hb => ?_⟩
    · exact (hbelow k (by omega)).trans (Memory.read_write_of_ne v hfb (by omega))
    · cases k with
      | zero =>
        cases hb
        exact (hbelow n (Nat.lt_succ_self n)).trans (Memory.read_write_same v hfb)
      | succ k =>
        rw [show n + (k + 1) = n + 1 + k by omega]
        exact hbytes k b hb

/-- Reads inside the framebuffer are answered by its bytes in order, and change nothing else. -/
theorem execAll_fbReads (indices : List Nat) {s : State} (ha : s.attends) (hi : ∀ k ∈ indices, k < s.cfg.fbLen) :
    execAll (indices.map .fbRead) s = .next { s with
      requests := s.requests.drop indices.length,
      trace := s.trace ++ indices.map fun k => .response (.rdata (Memory.read s.fb k)) } := by
  induction indices generalizing s with
  | nil => simp [execAll]
  | cons k indices ih =>
    obtain ⟨hk, hrest⟩ := List.forall_mem_cons.mp hi
    rw [List.map_cons, execAll_cons _ (exec_fbRead_of_lt ha hk), ih (s := s.respond _) ha hrest]
    simp [State.respond, State.takeRequest, State.send]

/-- A memory that holds the bytes at their indices reads as them, in order. -/
theorem map_read_range_eq {m : Memory} {bytes : List Byte} (h : ∀ k b, bytes[k]? = some b → Memory.read m k = b) :
    (List.range bytes.length).map (Memory.read m) = bytes :=
  List.ext_getElem (by simp) fun k _ hk => by simpa using h k bytes[k] (List.getElem?_eq_getElem hk)

/-- Settles O55: the writes put every byte at its index, and the reads answer the bytes of the indices in order. -/
theorem loadedBytesReadBack : Obligations.LoadedBytesReadBack := by
  refine ⟨fun cfg bytes hne => if_neg hne, fun s bytes hfb ha hlen => ?_⟩
  obtain ⟨t, ht, hcfg, hat, -, hbytes⟩ := execAll_fbWrites bytes 0 hfb ha (by omega)
  simp only [Nat.zero_add] at hbytes
  have hread := execAll_fbReads (List.range s.cfg.fbLen) hat (by simp [hcfg])
  refine ⟨_, t, _, if_pos hlen, ht, hbytes, hread, rfl, ?_⟩
  conv_rhs => rw [← map_read_range_eq hbytes, hlen, List.map_map]
  rfl

end Sys2Proof.Machine

/-! PROOFS. The statements of spec/41_drawing.md: where the iterations of a line stand and how many there are, which
pixels a line sets, and what a bitmap paints. -/

namespace Sys2Proof.Machine

/-! ### Where an iteration stands -/

/-- One iteration of R69's loop: both comparisons read the error from before it. -/
theorem lineNext_err (l : Line) (p : LinePoint) :
    (lineNext l p).err = p.err - (if p.err > -l.dx then l.dy else 0) + (if p.err < l.dy then l.dx else 0) := by
  dsimp only [lineNext]
  split_ifs <;> simp

theorem lineNext_x (l : Line) (p : LinePoint) :
    (lineNext l p).x = p.x + (if p.err > -l.dx then l.sx else 0) := by
  dsimp only [lineNext]
  split_ifs <;> simp

theorem lineNext_y (l : Line) (p : LinePoint) :
    (lineNext l p).y = p.y + (if p.err < l.dy then l.sy else 0) := by
  dsimp only [lineNext]
  split_ifs <;> simp

section Start

variable {l : Line} (x0 y0 : Int)

theorem lineStart_err_of_shallow (hdy : 0 ≤ l.dy) (h : l.dy < l.dx) :
    0 ≤ (lineStart l x0 y0).err ∧ (lineStart l x0 y0).err < l.dx := by
  rw [lineStart, if_pos h, Int.tdiv_eq_ediv_of_nonneg (by omega)]
  dsimp only
  omega

theorem lineStart_err_of_steep (hdy : 0 < l.dy) (h : l.dx ≤ l.dy) :
    -l.dy < (lineStart l x0 y0).err ∧ (lineStart l x0 y0).err ≤ 0 := by
  rw [lineStart, if_neg (by omega), Int.neg_tdiv, Int.tdiv_eq_ediv_of_nonneg (by omega)]
  dsimp only
  omega

/-- On a line of one point the loop's variables never change. -/
theorem lineAt_point (hdx : l.dx = 0) (hdy : l.dy = 0) (k : Nat) :
    lineAt l (lineStart l x0 y0) k = { err := 0, x := x0, y := y0 } := by
  have hstart : lineStart l x0 y0 = { err := 0, x := x0, y := y0 } := by simp [lineStart, hdx, hdy]
  rw [hstart]
  exact Function.iterate_fixed (by simp [lineNext, hdx, hdy]) k

end Start

/-- How far `k` iterations move, `a` columns and `b` rows: `k` along the longer axis, and along the other so far that
the deviation from the exact line stays below one step. -/
inductive Line.Moves (l : Line) (k : Nat) : Int → Int → Prop
  | shallow (b : Int) (hd : l.dy < l.dx) (hb : |b * l.dx - k * l.dy| < l.dx) : Line.Moves l k k b
  | steep (a : Int) (hd : l.dx ≤ l.dy) (ha : |k * l.dx - a * l.dy| < l.dy) : Line.Moves l k a k
  | point (hdx : l.dx = 0) (hdy : l.dy = 0) : Line.Moves l k 0 0

/-- Where iteration `k` stands, with the error in `[-dy, dx]`. -/
theorem lineAt_lineStart_moves {l : Line} (x0 y0 : Int) (hdx : 0 ≤ l.dx) (hdy : 0 ≤ l.dy) (k : Nat) :
    ∃ a b, l.Moves k a b ∧ (lineAt l (lineStart l x0 y0) k).x = x0 + a * l.sx ∧
      (lineAt l (lineStart l x0 y0) k).y = y0 + b * l.sy ∧
      -l.dy ≤ (lineAt l (lineStart l x0 y0) k).err ∧ (lineAt l (lineStart l x0 y0) k).err ≤ l.dx := by
  obtain hd | hd := lt_or_ge l.dy l.dx
  · obtain ⟨hlo, hhi⟩ := lineStart_err_of_shallow x0 y0 hdy hd
    obtain ⟨m, hat, hlo', hhi'⟩ := lineAt_shallow l _ hdy hd hlo hhi k
    rw [hat] at hlo' hhi' ⊢
    dsimp only at hlo' hhi' ⊢
    exact ⟨k, m, .shallow m hd (abs_lt.mpr ⟨by linarith, by linarith⟩), rfl, rfl, by linarith, by linarith⟩
  · obtain hpos | hzero := hdy.lt_or_eq
    · obtain ⟨hlo, hhi⟩ := lineStart_err_of_steep x0 y0 hpos hd
      obtain ⟨n, hat, hlo', hhi'⟩ := lineAt_steep l _ hdx hd hlo hhi k
      rw [hat] at hlo' hhi' ⊢
      dsimp only at hlo' hhi' ⊢
      exact ⟨n, k, .steep n hd (abs_lt.mpr ⟨by linarith, by linarith⟩), rfl, rfl, by linarith, by linarith⟩
    · rw [lineAt_point x0 y0 (by omega) hzero.symm]
      exact ⟨0, 0, .point (by omega) hzero.symm, by simp, by simp, by simpa using hdy, by simpa using hdx⟩

/-- A multiple of `d` less than `d` away from 0 is 0. -/
theorem eq_zero_of_abs_mul_lt {c d : Int} (h : |c * d| < d) : c = 0 := by
  have hd : 0 < d := (abs_nonneg _).trans_lt h
  exact (mul_eq_zero.mp (Int.eq_zero_of_abs_lt_dvd (Int.dvd_mul_left c d) h)).resolve_right hd.ne'

/-- After `max(dx, dy)` iterations all columns and rows are moved, and not before. -/
theorem Line.Moves.complete_iff {l : Line} {k : Nat} {a b : Int} (h : l.Moves k a b)
    (hk : (k : Int) ≤ max l.dx l.dy) : a = l.dx ∧ b = l.dy ↔ (k : Int) = max l.dx l.dy := by
  cases h with
  | shallow _ hd hb =>
    rw [max_eq_left hd.le]
    refine ⟨And.left, fun hkd => ⟨hkd, ?_⟩⟩
    rw [hkd, mul_comm l.dx, ← sub_mul] at hb
    exact sub_eq_zero.mp (eq_zero_of_abs_mul_lt hb)
  | steep _ hd ha =>
    rw [max_eq_right hd]
    refine ⟨And.right, fun hkd => ⟨?_, hkd⟩⟩
    rw [hkd, mul_comm l.dy, ← sub_mul] at ha
    exact (sub_eq_zero.mp (eq_zero_of_abs_mul_lt ha)).symm
  | point hdx hdy =>
    rw [hdx, hdy] at hk ⊢
    omega

/-! ### The iterations of a line -/

section Iterations

variable (x0 y0 x1 y1 : Int)

/-- Iteration `k` of `DRAWLINE x0, y0, x1, y1`. -/
def linePoint (k : Nat) : LinePoint := lineAt (lineOf x0 y0 x1 y1) (lineStart (lineOf x0 y0 x1 y1) x0 y0) k

theorem linePoint_succ (k : Nat) :
    linePoint x0 y0 x1 y1 (k + 1) = lineNext (lineOf x0 y0 x1 y1) (linePoint x0 y0 x1 y1 k) :=
  lineAt_succ _ _ k

theorem linePoint_moves (k : Nat) :
    ∃ a b, (lineOf x0 y0 x1 y1).Moves k a b ∧ (linePoint x0 y0 x1 y1 k).x = x0 + a * (lineOf x0 y0 x1 y1).sx ∧
      (linePoint x0 y0 x1 y1 k).y = y0 + b * (lineOf x0 y0 x1 y1).sy ∧
      -|y1 - y0| ≤ (linePoint x0 y0 x1 y1 k).err ∧ (linePoint x0 y0 x1 y1 k).err ≤ |x1 - x0| :=
  lineAt_lineStart_moves x0 y0 (abs_nonneg _) (abs_nonneg _) k

/-- `max(dx, dy)`, the number of the last iteration. -/
def lineLast : Nat := (max |x1 - x0| |y1 - y0|).toNat

theorem lineLast_cast : (lineLast x0 y0 x1 y1 : Int) = max |x1 - x0| |y1 - y0| :=
  Int.toNat_of_nonneg (le_max_of_le_left (abs_nonneg _))

/-- Only the `d`-th step from `z0` in the direction `σ` reaches `z1`, where `d` steps do. -/
theorem add_mul_direction_eq_iff {z0 z1 a d σ : Int} (hend : z0 + d * σ = z1) (hσ : σ = 1 ∨ σ = -1) :
    z0 + a * σ = z1 ↔ a = d := by
  rw [← hend, add_right_inj, mul_left_inj' (by omega)]

/-- The last iteration stands on the endpoint, and none before it does. -/
theorem linePoint_endsAt_iff {k : Nat} (hk : k ≤ lineLast x0 y0 x1 y1) :
    (lineOf x0 y0 x1 y1).endsAt (linePoint x0 y0 x1 y1 k) ↔ k = lineLast x0 y0 x1 y1 := by
  obtain ⟨a, b, hmoves, hx, hy, -⟩ := linePoint_moves x0 y0 x1 y1 k
  obtain ⟨hex, hey⟩ := lineOf_endpoint x0 y0 x1 y1
  obtain ⟨hsx, hsy⟩ := lineOf_signs x0 y0 x1 y1
  have hcast := lineLast_cast x0 y0 x1 y1
  calc (lineOf x0 y0 x1 y1).endsAt (linePoint x0 y0 x1 y1 k)
      ↔ a = (lineOf x0 y0 x1 y1).dx ∧ b = (lineOf x0 y0 x1 y1).dy := by
        unfold Line.endsAt
        rw [hx, hy]
        exact and_congr (add_mul_direction_eq_iff hex hsx) (add_mul_direction_eq_iff hey hsy)
    _ ↔ (k : Int) = max |x1 - x0| |y1 - y0| := hmoves.complete_iff (hcast ▸ Nat.cast_le.mpr hk)
    _ ↔ k = lineLast x0 y0 x1 y1 := by rw [← hcast, Nat.cast_inj]

/-- The loop takes the iterations 0 to `max(dx, dy)`, whatever further fuel it is given. -/
theorem lineTrail_of_lineLast_lt {fuel : Nat} (h : lineLast x0 y0 x1 y1 < fuel) :
    lineTrail (lineOf x0 y0 x1 y1) fuel (lineStart (lineOf x0 y0 x1 y1) x0 y0) =
      (List.range (lineLast x0 y0 x1 y1 + 1)).map (linePoint x0 y0 x1 y1) := by
  obtain ⟨extra, rfl⟩ := Nat.exists_eq_add_of_lt h
  rw [Nat.add_right_comm]
  exact lineTrail_eq _ _ _ (fun j hj => mt (linePoint_endsAt_iff x0 y0 x1 y1 hj.le).mp hj.ne)
    ((linePoint_endsAt_iff x0 y0 x1 y1 le_rfl).mpr rfl) extra

theorem lineIterations_eq :
    lineIterations x0 y0 x1 y1 = (List.range (lineLast x0 y0 x1 y1 + 1)).map (linePoint x0 y0 x1 y1) :=
  lineTrail_of_lineLast_lt x0 y0 x1 y1 (Nat.lt_succ_self _)

theorem length_lineIterations : (lineIterations x0 y0 x1 y1).length = lineLast x0 y0 x1 y1 + 1 := by
  simp [lineIterations_eq]

variable {x0 y0 x1 y1}

theorem lineIterations_getElem?_eq_some {k : Nat} {p : LinePoint} :
    (lineIterations x0 y0 x1 y1)[k]? = some p ↔ k ≤ lineLast x0 y0 x1 y1 ∧ linePoint x0 y0 x1 y1 k = p := by
  simp [lineIterations_eq, List.getElem?_eq_some_iff]

theorem err_bounds_of_mem {p : LinePoint} (h : p ∈ lineIterations x0 y0 x1 y1) :
    -|y1 - y0| ≤ p.err ∧ p.err ≤ |x1 - x0| := by
  rw [lineIterations_eq] at h
  obtain ⟨k, -, rfl⟩ := List.mem_map.mp h
  obtain ⟨-, -, -, -, -, hbounds⟩ := linePoint_moves x0 y0 x1 y1 k
  exact hbounds

end Iterations

/-- Settles O21: the iterations are the recurrence's points 0 to `max(dx, dy)`, of which only the last is the
endpoint. -/
theorem lineLoopCountBoundAndExit : Obligations.LineLoopCountBoundAndExit := by
  intro x0 y0 x1 y1 dx dy sx sy l first ps
  refine ⟨?count, ?first, ?exit, ?next, ⟨linePoint x0 y0 x1 y1 (lineLast x0 y0 x1 y1), ?last, ?endpoint⟩,
    fun p => err_bounds_of_mem, fun p hp => ?halfway⟩
  case count =>
    rw [length_lineIterations, Nat.cast_succ, lineLast_cast]
  case first =>
    rw [List.head?_eq_getElem?]
    exact lineIterations_getElem?_eq_some.mpr ⟨Nat.zero_le _, rfl⟩
  case exit =>
    intro fuel hfuel
    rw [length_lineIterations] at hfuel
    exact (lineTrail_of_lineLast_lt x0 y0 x1 y1 hfuel).trans (lineIterations_eq x0 y0 x1 y1).symm
  case next =>
    intro k p q hp hq
    obtain ⟨hk, rfl⟩ := lineIterations_getElem?_eq_some.mp hp
    obtain ⟨hk', rfl⟩ := lineIterations_getElem?_eq_some.mp hq
    rw [linePoint_succ]
    exact ⟨mt (linePoint_endsAt_iff x0 y0 x1 y1 hk).mp (by omega), lineNext_err _ _, lineNext_x _ _, lineNext_y _ _⟩
  case last =>
    rw [List.getLast?_eq_getElem?, length_lineIterations]
    exact lineIterations_getElem?_eq_some.mpr ⟨le_rfl, rfl⟩
  case endpoint => exact (linePoint_endsAt_iff x0 y0 x1 y1 le_rfl).mpr rfl
  case halfway =>
    obtain ⟨hlo, hhi⟩ := err_bounds_of_mem hp
    have hdx : 0 ≤ dx := abs_nonneg _
    have hdy : 0 ≤ dy := abs_nonneg _
    split <;> omega

/-! ### Straight lines -/

/-- On a horizontal, a vertical and a 45 degree line the moves along an axis are `k` or, where there is nothing to
move, none. -/
theorem Line.Moves.of_straight {l : Line} {k : Nat} {a b : Int} (h : l.Moves k a b) (hdx : 0 ≤ l.dx)
    (hdy : 0 ≤ l.dy) (hl : l.dy = 0 ∨ l.dx = 0 ∨ l.dx = l.dy) :
    a = (if l.dx = 0 then 0 else (k : Int)) ∧ b = if l.dy = 0 then 0 else (k : Int) := by
  cases h with
  | shallow _ hd hb =>
    have hy : l.dy = 0 := by omega
    rw [hy, mul_zero, sub_zero] at hb
    simp [hy, eq_zero_of_abs_mul_lt hb, show l.dx ≠ 0 by omega]
  | steep _ hd ha =>
    have hy : l.dy ≠ 0 := ((abs_nonneg _).trans_lt ha).ne'
    obtain hx | hx : l.dx = 0 ∨ l.dx = l.dy := by omega
    · rw [hx, mul_zero, zero_sub, abs_neg] at ha
      simp [hx, hy, eq_zero_of_abs_mul_lt ha]
    · rw [hx, ← sub_mul] at ha
      simp [hx, hy, (sub_eq_zero.mp (eq_zero_of_abs_mul_lt ha)).symm]
  | point hx hy => simp [hx, hy]

/-- `k` steps in the line's direction, or none where there is nothing to move, are `k` steps of the sign. -/
theorem ite_mul_direction (z0 z1 k : Int) :
    (if |z1 - z0| = 0 then 0 else k) * (if z0 < z1 then 1 else -1) = k * (z1 - z0).sign := by
  rcases lt_trichotomy z0 z1 with h | h | h
  · simp [h, Int.sign_eq_one_of_pos (sub_pos.mpr h), show z1 - z0 ≠ 0 by omega]
  · simp [h]
  · simp [h.not_gt, Int.sign_eq_neg_one_of_neg (sub_neg.mpr h), show z1 - z0 ≠ 0 by omega]

/-- Settles O22: the moves along each axis are `k` or none, in the line's direction. -/
theorem straightLinesAreExact : Obligations.StraightLinesAreExact := by
  intro x0 y0 x1 y1 k p hstraight hp
  obtain ⟨-, rfl⟩ := lineIterations_getElem?_eq_some.mp hp
  obtain ⟨a, b, hmoves, hx, hy, -⟩ := linePoint_moves x0 y0 x1 y1 k
  obtain ⟨rfl, rfl⟩ := hmoves.of_straight (abs_nonneg _) (abs_nonneg _) <| by
    change |y1 - y0| = 0 ∨ |x1 - x0| = 0 ∨ |x1 - x0| = |y1 - y0|
    rw [abs_eq_zero, abs_eq_zero]
    omega
  exact ⟨hx.trans (congrArg _ (ite_mul_direction x0 x1 k)), hy.trans (congrArg _ (ite_mul_direction y0 y1 k))⟩

/-! ### The pixels of the panel -/

/-- A canonical framebuffer holds no byte at or past its length. -/
theorem Memory.read_of_le {length low a : Nat} {m : Memory} (h : Memory.wfFrom length low m = true)
    (ha : length ≤ a) : Memory.read m a = 0 := by
  induction m generalizing low with
  | nil => rfl
  | cons cell rest ih =>
    obtain ⟨b, w⟩ := cell
    simp only [Memory.wfFrom, Bool.and_eq_true, decide_eq_true_eq] at h
    obtain ⟨⟨-, hb, -⟩, hrest⟩ := h
    simp [Memory.read, show ¬ a < b by omega, show a ≠ b by omega, ih hrest]

/-- Painting with a row's mask sets the bit of that row to the colour and keeps the others. -/
theorem getLsbD_paintedByte (color : Color) (r : Nat) (b : Byte) {i : Nat} (hi : i < 8) :
    (paintedByte color (maskOf r) b).getLsbD i = if i = r % 8 then color == .on else b.getLsbD i := by
  have hmask : (maskOf r).getLsbD i = decide (i = r % 8) := by
    have hr : r % 8 < 8 := Nat.mod_lt r (by decide)
    rw [maskOf, bitOf_eq_mod, Bool.eq_iff_iff]
    simp only [BitVec.getLsbD_shiftLeft, BitVec.getLsbD_one, Bool.and_eq_true, Bool.not_eq_true', decide_eq_true_eq,
      decide_eq_false_iff_not]
    omega
  cases color
  case on =>
    rw [paintedByte, BitVec.getLsbD_or, hmask]
    split_ifs with h <;> simp [h]
  case off =>
    rw [paintedByte, BitVec.getLsbD_and, BitVec.getLsbD_not, hmask]
    split_ifs with h <;> simp [h, hi]

/-- Painting sets the painted pixel to the colour, and keeps every other. -/
theorem pixelAt_paint {cfg : Config} {fb : Memory} {c r : Nat} (x y : Int) (color : Color)
    (hfb : Memory.wf cfg.fbLen fb = true) (hc : c < cfg.width) (hr : r < cfg.height) :
    pixelAt cfg (paint cfg fb x y color) c r =
      if x = c + 1 ∧ y = r + 1 then color == .on else pixelAt cfg fb c r := by
  by_cases hp : 1 ≤ x ∧ x ≤ cfg.width ∧ 1 ≤ y ∧ y ≤ cfg.height
  · obtain ⟨c', rfl⟩ : ∃ c' : Nat, x = c' + 1 := ⟨(x - 1).toNat, by omega⟩
    obtain ⟨r', rfl⟩ : ∃ r' : Nat, y = r' + 1 := ⟨(y - 1).toNat, by omega⟩
    have hc' : c' < cfg.width := by omega
    rw [paint_of_locate_eq_some fb color (locate_succ hc' (by omega))]
    change (Memory.read _ (indexOf cfg c r)).getLsbD (r % 8) =
      if _ then _ else (Memory.read fb (indexOf cfg c r)).getLsbD (r % 8)
    by_cases hi : indexOf cfg c r = indexOf cfg c' r'
    · obtain ⟨rfl, hpage⟩ := eq_of_indexOf_eq hc hc' hi
      rw [← hi, Memory.read_write_same _ hfb, getLsbD_paintedByte _ _ _ (Nat.mod_lt r (by decide))]
      exact if_congr (by omega) rfl rfl
    · rw [Memory.read_write_of_ne _ hfb hi, if_neg]
      rintro ⟨hx, hy⟩
      exact hi (by rw [show c = c' by omega, show r = r' by omega])
  · rw [paint_of_locate_eq_none fb color (locate_of_not_mem_panel hp), if_neg (by omega)]

/-- Plotting points turns on their pixels, and no others. -/
theorem pixelAt_foldl_plot {cfg : Config} {fb : Memory} {c r : Nat} (ps : List LinePoint) (hwf : cfg.wf = true)
    (hfb : Memory.wf cfg.fbLen fb = true) (hc : c < cfg.width) (hr : r < cfg.height) :
    pixelAt cfg (ps.foldl (plot cfg) fb) c r = true ↔
      pixelAt cfg fb c r = true ∨ ∃ p ∈ ps, p.x = c ∧ p.y = r := by
  induction ps generalizing fb with
  | nil => simp
  | cons p ps ih =>
    have hplot : pixelAt cfg (plot cfg fb p) c r = true ↔ pixelAt cfg fb c r = true ∨ p.x = c ∧ p.y = r := by
      simp only [plot, pixelAt_paint _ _ _ hfb hc hr, add_left_inj]
      split_ifs with h <;> simp [h]
    rw [List.foldl_cons, ih (fb := plot cfg fb p) (paint_wf _ _ _ hwf hfb), hplot, List.exists_mem_cons_iff, or_assoc]

/-- Settles O20: the line is a fold of plots over its iterations. -/
theorem drawLineSetsExactlyItsPoints : Obligations.DrawLineSetsExactlyItsPoints := by
  intro s x0 y0 x1 y1 hwf hfb ha
  refine ⟨drawLineOn s.cfg s.fb x0 y0 x1 y1, congrArg Host.Outcome.next (State.attend_of_attends _ ha), ?_, ?_⟩
  · exact fun c r => pixelAt_foldl_plot _ hwf hfb
  · exact fun j => Memory.read_of_le (drawLineOn_wf x0 y0 x1 y1 hwf hfb)

/-! ### Bitmaps -/

theorem execAll_append {is js : List Instr} {s t : State} (h : execAll is s = .next t) :
    execAll (is ++ js) s = execAll js t := by
  induction is generalizing s with
  | nil => cases h; rfl
  | cons i is ih =>
    rw [List.cons_append]
    cases hexec : exec i s with
    | next u =>
      rw [execAll_cons _ hexec] at h ⊢
      exact ih h
    | fault | refused =>
      rw [execAll, hexec] at h
      cases h

theorem bitmapRequests_concat (cfg : Config) (pixels : List Color) (color : Color) :
    bitmapRequests cfg (pixels ++ [color]) = bitmapRequests cfg pixels ++ [bitmapPixel cfg color pixels.length] := by
  simp [bitmapRequests, List.zipIdx_append]

/-- Entry `i` of a bitmap is for the pixel with row-major index `i`. -/
theorem bitmapPixel_coords_iff {width c : Nat} (r i : Nat) (hc : c < width) :
    ((i % width : Nat) : Int) + 1 = c + 1 ∧ ((i / width : Nat) : Int) + 1 = r + 1 ↔ r * width + c = i := by
  rw [add_left_inj, add_left_inj, Nat.cast_inj, Nat.cast_inj]
  constructor
  · rintro ⟨rfl, rfl⟩
    exact Nat.div_add_mod' i width
  · rintro rfl
    have hw : 0 < width := by omega
    simp [Nat.mod_eq_of_lt hc, Nat.add_div_of_dvd_right, Nat.div_eq_of_lt hc, hw]

/-- The colour of the pixel with row-major index `i` after a bitmap, `before` being the colour it had (R72). -/
def bitmapColor (pixels : List Color) (i : Nat) (before : Bool) : Bool :=
  match pixels[i]? with
  | some color => color == .on
  | none => before

theorem bitmapColor_concat (pixels : List Color) (color : Color) (i : Nat) (before : Bool) :
    bitmapColor (pixels ++ [color]) i before =
      if i = pixels.length then color == .on else bitmapColor pixels i before := by
  unfold bitmapColor
  rcases lt_trichotomy i pixels.length with h | h | h
  · rw [List.getElem?_append_left h, if_neg h.ne]
  · simp [h]
  · rw [if_neg h.ne', List.getElem?_eq_none (by simpa using h), List.getElem?_eq_none h.le]

/-- The requests of a bitmap all run, and each pixel gets the colour of its entry, by induction on the entries from
the last. -/
theorem execAll_bitmapRequests (pixels : List Color) {s : State} (hwf : s.cfg.wf = true)
    (hfb : Memory.wf s.cfg.fbLen s.fb = true) (ha : s.attends) :
    ∃ t, execAll (bitmapRequests s.cfg pixels) s = .next t ∧ t.cfg = s.cfg ∧ t.attends ∧
      Memory.wf s.cfg.fbLen t.fb = true ∧
      ∀ c r : Nat, c < s.cfg.width → r < s.cfg.height →
        pixelAt s.cfg t.fb c r = bitmapColor pixels (r * s.cfg.width + c) (pixelAt s.cfg s.fb c r) := by
  induction pixels using List.reverseRecOn with
  | nil => exact ⟨s, rfl, rfl, ha, hfb, fun _ _ _ _ => rfl⟩
  | append_singleton pixels color ih =>
    obtain ⟨t, ht, hcfg, hat, hfbt, hpixels⟩ := ih
    rw [bitmapRequests_concat, execAll_append ht, bitmapPixel, execAll_cons _ (exec_setPixel_of_attends hat _ _ color)]
    refine ⟨_, rfl, hcfg, hat, ?_, fun c r hc hr => ?_⟩
    · exact hcfg ▸ paint_wf _ _ color (hcfg ▸ hwf) (hcfg ▸ hfbt)
    · rw [bitmapColor_concat, ← hpixels c r hc hr, ← if_congr (bitmapPixel_coords_iff r _ hc) rfl rfl, ← hcfg]
      exact pixelAt_paint _ _ color (hcfg ▸ hfbt) (hcfg ▸ hc) (hcfg ▸ hr)

/-- Settles O54: each entry paints the pixel of its index. -/
theorem bitmapPaintsEveryPixel : Obligations.BitmapPaintsEveryPixel := by
  intro s pixels hwf hfb ha
  obtain ⟨t, ht, -, -, -, hpixels⟩ := execAll_bitmapRequests pixels hwf hfb ha
  exact ⟨t, ht, hpixels⟩

end Sys2Proof.Machine

/-! PROOFS. The statements of spec/42_command_protocol.md: an emission list's command writes are its operation's
commands, and a due command's writes are as many steps of the sequencer, whatever the transport answers. -/

namespace Sys2Proof.Machine

/-! ### The control bytes -/

theorem filter_cmdEntries (payloads : List Byte) :
    ((cmdEntries payloads).filter fun e => e.1 == 0x00) = cmdEntries payloads :=
  List.filter_eq_self.mpr fun _ he => by
    obtain ⟨_, -, rfl⟩ := List.mem_map.mp he
    rfl

theorem filter_dataEntries (payloads : List Byte) : ((dataEntries payloads).filter fun e => e.1 == 0x00) = [] :=
  List.filter_eq_nil_iff.mpr fun _ he => by
    obtain ⟨_, -, rfl⟩ := List.mem_map.mp he
    exact Bool.false_ne_true

/-- Settles O35: of the list's command writes and the data writes after them, the filter keeps the former. -/
theorem emissionListIsItsCommands : Obligations.EmissionListIsItsCommands := by
  intro s
  obtain ⟨data, hlist⟩ := s.emissionList_split
  rw [hlist, List.filter_append, filter_cmdEntries, filter_dataEntries, List.append_nil, cmdEntries, List.map_map]
  exact (List.map_id _).symm

/-- Only a push's list is not one of command writes alone (R119). -/
theorem State.emissionList_eq_cmdEntries {s : State} (h : s.curOp ≠ .push) :
    ∃ payloads, s.emissionList = cmdEntries payloads := by
  unfold State.emissionList
  cases hop : s.curOp
  case none => exact ⟨[], rfl⟩
  case push => exact absurd hop h
  case init | contrast | invert | scroll | stopScroll => exact ⟨_, rfl⟩

/-! ### Where the operation has come to -/

/-- A command has at least its opcode byte (R73). -/
theorem State.commandBytes_ne_nil {s : State} {i : Instr} (h : i ∈ s.commands) : s.commandBytes i ≠ [] := by
  cases i
  case init | clear | setPixel | drawLine | pushFrame | setContrast | invert | scrollRight | stopScroll | fbRead |
      fbWrite | busCmdWrite | busDataWrite | busStatusRead =>
    unfold State.commands at h
    cases hop : s.curOp <;> rw [hop] at h
    case invert => cases hf : s.argF <;> simp [hf] at h
    all_goals simp at h
  all_goals exact List.cons_ne_nil _ _

/-- The emission has come to the command writes of these payloads. -/
def State.comesTo (s : State) (payloads : List Byte) : Prop :=
  s.phase = .emit ∧ ∃ rest, s.emissionList.drop s.seqIdx.toNat = cmdEntries payloads ++ rest

theorem State.comesTo_commandBytes {s : State} {i : Instr} (hp : s.phase = .emit) (h : s.dueCommand = some i) :
    s.comesTo (s.commandBytes i) :=
  ⟨hp, State.emissionList_of_dueCommand h⟩

theorem State.advanced_seqIdx_toNat {s : State} {n : Nat} (hw : s.cfg.wf = true)
    (h : s.seqIdx.toNat + n ≤ s.emissionList.length) : (s.advanced n).seqIdx.toNat = s.seqIdx.toNat + n := by
  have hle := State.emissionList_length_le hw
  have hidx : (s.advanced n).seqIdx = BitVec.ofNat 13 (s.seqIdx.toNat + n) := by
    unfold State.advanced
    split <;> rfl
  rw [hidx, BitVec.toNat_ofNat, Nat.mod_eq_of_lt (by omega)]

theorem State.advanced_emissionList {s : State} {n : Nat} (h : s.seqIdx.toNat + n < s.emissionList.length) :
    (s.advanced n).emissionList = s.emissionList := by
  rw [State.advanced_emit h]
  rfl

section ComesTo

variable {s : State} {b : Byte} {bs : List Byte}

theorem State.comesTo.length_le (h : s.comesTo bs) : bs.length ≤ s.emissionList.length - s.seqIdx.toNat := by
  obtain ⟨-, rest, hdrop⟩ := h
  have hlen := congrArg List.length hdrop
  simp only [List.length_drop, List.length_append, cmdEntries, List.length_map] at hlen
  omega

theorem State.comesTo.dueEntry (h : s.comesTo (b :: bs)) : s.dueEntry = some (0x00, b) := by
  obtain ⟨hp, rest, hdrop⟩ := h
  exact State.dueEntry_eq_some.mpr ⟨hp, by rw [← List.head?_drop, hdrop]; rfl⟩

theorem State.comesTo.sendIfDue_eq (h : s.comesTo (b :: bs)) : s.sendIfDue 0x00 b = s.sendEntry 0x00 b :=
  if_pos h.dueEntry

/-- An acknowledged write that is not the list's last leads to the payloads after it. -/
theorem State.comesTo.advanced_one (hw : s.cfg.wf = true) (h : s.comesTo (b :: bs))
    (hl : s.seqIdx.toNat + 1 < s.emissionList.length) : (s.advanced 1).comesTo bs := by
  obtain ⟨hp, rest, hdrop⟩ := h
  refine ⟨by rw [State.advanced_emit hl]; exact hp, rest, ?_⟩
  rw [State.advanced_seqIdx_toNat hw hl.le, State.advanced_emissionList hl, ← List.tail_drop, hdrop]
  rfl

end ComesTo

/-! ### All of a command's writes acknowledged -/

/-- With an acknowledgement for each, a command's writes are the next entries of the list, by induction on the
payloads. -/
theorem State.sendCommandWrites_of_acknowledged (bs : List Byte) {s : State} {rest : List WriteAnswer}
    (hw : s.cfg.wf = true) (h : s.comesTo bs) (hl : s.seqIdx.toNat < s.emissionList.length)
    (ha : s.writeAnswers = List.replicate bs.length .ok ++ rest) : s.sendCommandWrites bs = s.advanced bs.length := by
  induction bs generalizing s with
  | nil => exact (State.advanced_zero hl).symm
  | cons b bs ih =>
    have hsent : s.sendIfDue 0x00 b = s.advanced 1 := h.sendIfDue_eq.trans (State.sendEntry_ok hw h.dueEntry ha)
    rw [State.sendCommandWrites, hsent]
    by_cases hend : s.seqIdx.toNat + 1 = s.emissionList.length
    · have hlen := h.length_le
      obtain rfl : bs = [] := List.eq_nil_of_length_eq_zero (by simp only [List.length_cons] at hlen; omega)
      rfl
    · have hlt : s.seqIdx.toNat + 1 < s.emissionList.length := by omega
      have hnext := h.advanced_one hw hlt
      have hemit := State.advanced_emit hlt
      have hl' : (s.advanced 1).seqIdx.toNat < (s.advanced 1).emissionList.length := by
        rwa [State.advanced_seqIdx_toNat hw hl, State.advanced_emissionList hlt]
      rw [ih (hemit ▸ hw) hnext hl' (by rw [hemit, ha]; rfl), State.advanced_add hw hlt, Nat.add_comm,
        List.length_cons]

/-- What a run of writes sends, before the DONE that may follow. -/
theorem State.take_trace_advanced {s : State} {n : Nat} (h : s.seqIdx.toNat + n ≤ s.emissionList.length) :
    (s.advanced n).trace.take (s.trace.length + n) =
      s.trace ++ sentEntries s.cfg ((s.emissionList.drop s.seqIdx.toNat).take n) := by
  have hlen : (s.trace ++ sentEntries s.cfg ((s.emissionList.drop s.seqIdx.toNat).take n)).length =
      s.trace.length + n := by
    simp [sentEntries]
    omega
  unfold State.advanced
  split
  · exact List.take_left' hlen
  · exact List.take_of_length_le hlen.le

/-- Settles O38: the list goes on with the command's writes, so that these are the run of writes that is sent; a list
without data writes has no other control byte. -/
theorem commandSendsItsBytes : Obligations.CommandSendsItsBytes := by
  refine ⟨fun s i rest hw hp hd ha => ?_, fun s hop e he => ?_⟩
  · have hcomes := State.comesTo_commandBytes hp hd
    have hpos := List.length_pos_iff.mpr (State.commandBytes_ne_nil (State.dueCommand_mem hd))
    have hle := hcomes.length_le
    have ⟨_, after, hdrop⟩ := hcomes
    constructor
    · rw [exec_of_dueCommand hp hd, State.sendCommandWrites_of_acknowledged _ hw hcomes (by omega) ha]
    · rw [State.take_trace_advanced (by omega), hdrop, List.take_left' (by simp [cmdEntries])]
      rfl
  · obtain ⟨payloads, hlist⟩ := State.emissionList_eq_cmdEntries hop
    rw [hlist] at he
    obtain ⟨_, -, rfl⟩ := List.mem_map.mp he
    rfl

/-! ### A command's writes and the sequencer's steps -/

theorem State.sendIfDue_withTurns (s : State) (c b : Byte) (ts : List Turn) :
    (s.withTurns ts).sendIfDue c b = (s.sendIfDue c b).withTurns ts := by
  unfold State.sendIfDue
  rw [State.withTurns_dueEntry]
  split
  · unfold State.sendEntry
    rw [State.withTurns_writeAnswers]
    cases s.writeAnswers with
    | nil => rfl
    | cons answer rest =>
      cases answer with
      | err => rfl
      | ok =>
        dsimp only
        exact Eq.symm (apply_ite (State.withTurns · ts) _ _ _)
  · rfl

/-- The sequencer's turn changes nothing: the operation has ended, or the transport has not answered the due write. -/
def State.stalled (s : State) : Prop :=
  s.phase = .idle ∨ s.phase = .emit ∧ s.seqIdx.toNat < s.emissionList.length ∧ s.writeAnswers = []

theorem State.stalled.sequencerTurn {s : State} (h : s.stalled) : s.sequencerTurn = .next s := by
  obtain hp | ⟨hp, hl, ha⟩ := h
  · simp [State.sequencerTurn, hp]
  · obtain ⟨c, b, hs⟩ := State.sequencerTurn_of_emit hp hl
    rw [hs, State.sendEntry_wait ha]

theorem State.stalled.sendIfDue {s : State} (h : s.stalled) (c b : Byte) : s.sendIfDue c b = s := by
  unfold State.sendIfDue
  split
  · next hd =>
    obtain hp | ⟨-, -, ha⟩ := h
    · cases hp.symm.trans (State.dueEntry_eq_some.mp hd).1
    · exact State.sendEntry_wait ha
  · rfl

/-- Where the command writes of these payloads are due or nothing moves, a turn of the sequencer is the first of
them. -/
theorem State.sequencerTurn_eq_sendIfDue {s : State} {b : Byte} {bs : List Byte}
    (h : s.comesTo (b :: bs) ∨ s.stalled) : s.sequencerTurn = .next (s.sendIfDue 0x00 b) := by
  obtain h | h := h
  · have ⟨hp, _⟩ := h
    simp [State.sequencerTurn, hp, h.dueEntry, decodeBusWrite, exec, execBusCmdWrite]
  · rw [h.sequencerTurn, h.sendIfDue]

/-- After a write the ones behind it are due, unless it failed, has no answer yet or was the operation's last. -/
theorem State.comesTo_or_stalled_sendIfDue {s : State} {b : Byte} {bs : List Byte} (hw : s.cfg.wf = true)
    (h : s.comesTo (b :: bs) ∨ s.stalled) : (s.sendIfDue 0x00 b).comesTo bs ∨ (s.sendIfDue 0x00 b).stalled := by
  obtain h | h := h
  · have hl := State.dueEntry_lt h.dueEntry
    rw [h.sendIfDue_eq]
    cases ha : s.writeAnswers with
    | nil =>
      rw [State.sendEntry_wait ha]
      exact .inr (.inr ⟨h.1, hl, ha⟩)
    | cons answer rest =>
      cases answer with
      | err =>
        rw [State.sendEntry_err ha]
        exact .inr (.inl rfl)
      | ok =>
        rw [State.sendEntry_ok hw h.dueEntry ha]
        by_cases hend : s.seqIdx.toNat + 1 = s.emissionList.length
        · right; left
          rw [State.advanced, if_pos hend]
        · exact .inl (h.advanced_one hw (by omega))
  · rw [h.sendIfDue]
    exact .inr h

/-- As many turns of the sequencer as there are payloads are their command writes, by induction on the payloads. -/
theorem stepMany_sequencer_eq_sendCommandWrites (bs : List Byte) {s : State} (ts : List Turn) (hw : s.cfg.wf = true)
    (h : s.comesTo bs ∨ s.stalled) :
    stepMany bs.length (s.withTurns (List.replicate bs.length .sequencer ++ ts)) =
      .next ((s.withTurns ts).sendCommandWrites bs) := by
  induction bs generalizing s with
  | nil => rfl
  | cons b bs ih =>
    have hstep (ts' : List Turn) :
        step (s.withTurns (.sequencer :: ts')) = .next ((s.sendIfDue 0x00 b).withTurns ts') :=
      calc step (s.withTurns (.sequencer :: ts'))
        _ = (s.withTurns ts').sequencerTurn := step_of_turn (s := s.withTurns (.sequencer :: ts')) hw rfl
        _ = .next ((s.withTurns ts').sendIfDue 0x00 b) :=
          State.sequencerTurn_eq_sendIfDue (s := s.withTurns ts') (bs := bs) h
        _ = .next ((s.sendIfDue 0x00 b).withTurns ts') := by rw [State.sendIfDue_withTurns]
    rw [List.length_cons, List.replicate_succ, List.cons_append, stepMany_succ _ (hstep _),
      ih ((s.sendIfDue_cfg_fb 0x00 b).1 ▸ hw) (State.comesTo_or_stalled_sendIfDue hw h), State.sendCommandWrites,
      State.sendIfDue_withTurns]

/-- Settles O39: where the operation has come to the command, the sequencer's steps are its writes, and so is `exec`. -/
theorem commandIsItsSequencerSteps : Obligations.CommandIsItsSequencerSteps := by
  intro s i ts hw hp hd ht
  have hs : s = s.withTurns (List.replicate (s.commandBytes i).length .sequencer ++ ts) := by
    rw [← ht]
    rfl
  calc stepMany (s.commandBytes i).length s
      = stepMany (s.commandBytes i).length
          (s.withTurns (List.replicate (s.commandBytes i).length .sequencer ++ ts)) := by rw [← hs]
    _ = .next ((s.withTurns ts).sendCommandWrites (s.commandBytes i)) :=
        stepMany_sequencer_eq_sendCommandWrites _ ts hw (.inl (State.comesTo_commandBytes hp hd))
    _ = exec i (s.withTurns ts) := (exec_of_dueCommand (s := s.withTurns ts) hp hd).symm

end Sys2Proof.Machine

/-! PROOFS. The statements of spec/43_ready_poll.md: the busy predicate, how a handshake starts, its two steps, and how
many reads it takes until the controller is ready. -/

namespace Sys2Proof.Machine

/-! ### The busy predicate -/

/-- At 16 bits the shift by 7 loses no bit of the byte (R107). -/
theorem setWidth_shiftLeft_eq_zero_iff (b : Byte) : b.setWidth 16 <<< 7 = 0 ↔ b = 0 := by
  have hlt := b.isLt
  have hshift : (b.setWidth 16 <<< 7).toNat = b.toNat * 128 := by
    rw [BitVec.toNat_shiftLeft, BitVec.toNat_setWidth, Nat.shiftLeft_eq]
    omega
  rw [← BitVec.toNat_inj, ← BitVec.toNat_inj, hshift]
  exact Nat.mul_eq_zero.trans (or_iff_left (by decide))

theorem busy_anyBit_iff (b : Byte) : busy .anyBit b = true ↔ b.setWidth 16 <<< 7 ≠ 0 := bne_iff_ne

/-- Bit 7 of a byte is its most significant bit. -/
theorem busy_bit7_iff (b : Byte) : busy .bit7 b = true ↔ 128 ≤ b.toNat := by
  change b.msb = true ↔ 128 ≤ b.toNat
  rw [BitVec.msb_eq_decide]
  exact decide_eq_true_iff

/-- Settles O29: `busy_anyBit_iff`, of a shift that is zero only for the byte zero, and `busy_bit7_iff`. -/
theorem busyPredicateOfEachMode : Obligations.BusyPredicateOfEachMode := fun b =>
  ⟨busy_anyBit_iff b, (busy_anyBit_iff b).trans (setWidth_shiftLeft_eq_zero_iff b).not, busy_bit7_iff b⟩

/-! ### The start of a handshake -/

/-- In IDLE a bus request that fits INIT_DONE starts its operation (R118). -/
theorem State.attend_acceptBus_of_idle {s : State} {op : Op} (latch : State → State) (hp : s.phase = .idle)
    (hi : op = .init ↔ s.initDone = false) : (s.attend fun t => t.acceptBus op latch) = s.startOp op latch := by
  rw [State.attend_of_attends _ (.inl hp)]
  obtain ⟨hpoll, -⟩ | ⟨-, hop, hdone, -⟩ | ⟨-, hop, hdone, -⟩ | ⟨-, -, hs⟩ := s.acceptBus_cases op latch
  · simp [hp] at hpoll
  · cases hdone.symm.trans (hi.mp hop)
  · exact absurd (hi.mpr hdone) hop
  · exact hs

/-- Settles O23: both requests start an operation that polls. -/
theorem handshakeRequestsStart : Obligations.HandshakeRequestsStart := by
  intro s start stop hp hdone
  constructor
  · exact congrArg Host.Outcome.next (State.attend_acceptBus_of_idle _ hp (by simp [hdone]))
  · exact congrArg Host.Outcome.next (State.attend_acceptBus_of_idle _ hp (by simp [hdone]))

/-! ### The status read -/

/-- In POLL_REQ a status read is its emission, whichever byte will come (R110). -/
theorem exec_busStatusRead_of_pollReq {s : State} (hp : s.phase = .pollReq) (b : Byte) :
    exec (.busStatusRead b) s = .next s.requestStatus := by
  simp [exec, execBusStatusRead, hp]

/-- In POLL_WAIT a status read is the handling of the byte that has arrived (R112). -/
theorem exec_busStatusRead_of_answer {s : State} {b : Byte} {rest : List ReadAnswer} (hp : s.phase = .pollWait)
    (ha : s.readAnswers = .ok b :: rest) : exec (.busStatusRead b) s = .next (s.answerStatus (.ok b)) := by
  simp [exec, execBusStatusRead, hp, ha]

/-- Settles O30: the fields of `State.requestStatus` written out. -/
theorem statusReadIsEmitted : Obligations.StatusReadIsEmitted := fun _ b hp => exec_busStatusRead_of_pollReq hp b

/-! ### The sequencer's turn in the handshake -/

theorem State.sequencerTurn_of_pollReq {s : State} (hp : s.phase = .pollReq) :
    s.sequencerTurn = .next s.requestStatus := by
  simp [State.sequencerTurn, hp]

/-- Without an answer the block waits (R115). -/
theorem State.sequencerTurn_of_no_answer {s : State} (hp : s.phase = .pollWait) (ha : s.readAnswers = []) :
    s.sequencerTurn = .next s := by
  simp [State.sequencerTurn, hp, ha]

section Steps

variable {s : State} {ts : List Turn} (hw : s.cfg.wf = true) (ht : s.turns = .sequencer :: ts)
include hw ht

theorem step_of_pollReq (hp : s.phase = .pollReq) : step s = .next (s.withTurns ts).requestStatus :=
  (step_of_turn hw ht).trans (State.sequencerTurn_of_pollReq (s := s.withTurns ts) hp)

theorem step_of_answer {answer : ReadAnswer} {rest : List ReadAnswer} (hp : s.phase = .pollWait)
    (ha : s.readAnswers = answer :: rest) : step s = .next ((s.withTurns ts).answerStatus answer) :=
  (step_of_turn hw ht).trans (State.sequencerTurn_of_answer (s := s.withTurns ts) hp ha)

/-- With the byte arrived the step is the status read of that byte. -/
theorem step_eq_exec_busStatusRead {b : Byte} {rest : List ReadAnswer} (hp : s.phase = .pollWait)
    (ha : s.readAnswers = .ok b :: rest) : step s = exec (.busStatusRead b) (s.withTurns ts) :=
  (step_of_answer hw ht hp ha).trans (exec_busStatusRead_of_answer (s := s.withTurns ts) hp ha).symm

end Steps

/-- Settles O14: in each phase of the handshake the step and the instruction do the same. -/
theorem sequencerTurnRunsTheStatusRead : Obligations.SequencerTurnRunsTheStatusRead := by
  refine fun s ts hw ht => ⟨fun hp b => ?_, fun hp b rest ha => ?_, fun hp ha => ?_⟩
  · exact (step_of_pollReq hw ht hp).trans (exec_busStatusRead_of_pollReq (s := s.withTurns ts) hp b).symm
  · exact step_eq_exec_busStatusRead hw ht hp ha
  · exact (step_of_turn hw ht).trans (State.sequencerTurn_of_no_answer (s := s.withTurns ts) hp ha)

/-! ### The answer to a status read -/

/-- An operation that fails leaves INIT_DONE alone (R121). -/
theorem State.complete_of_ne_ok (s : State) {result : Result} (h : result ≠ .ok) : s.complete result = { s with
    lastErr := result, curOp := .none, phase := .idle, trace := s.trace ++ [.done s.curOp result] } := by
  simp [State.complete, State.send, h]

theorem State.capReached_iff (s : State) :
    s.capReached = true ↔ ∃ cap, s.cfg.pollCap = some cap ∧ cap ≤ s.pollCnt := by
  unfold State.capReached
  cases s.cfg.pollCap <;> simp

section Answers

variable {s : State} {b : Byte} {rest : List ReadAnswer}

/-- ERR ends the operation, whatever POLL_CNT (R112). -/
theorem State.answerStatus_err (ha : s.readAnswers = .err :: rest) : s.answerStatus .err = { s with
    readAnswers := rest, lastErr := .transport, curOp := .none, phase := .idle,
    trace := s.trace ++ [.done s.curOp .transport] } := by
  rw [State.answerStatus, ha]
  exact State.complete_of_ne_ok _ (by decide)

variable (ha : s.readAnswers = .ok b :: rest)
include ha

/-- A ready answer leads to the emission's first entry (R112). -/
theorem State.answerStatus_of_ready (hb : busy s.cfg.busyMode b = false) :
    s.answerStatus (.ok b) = { s with readAnswers := rest, seqIdx := 0, phase := .emit } := by
  simp [State.answerStatus, ha, hb]

/-- A busy answer at the cap ends the operation (R112). -/
theorem State.answerStatus_of_busy_at_cap (hb : busy s.cfg.busyMode b = true)
    (hc : ∃ cap, s.cfg.pollCap = some cap ∧ cap ≤ s.pollCnt) : s.answerStatus (.ok b) = { s with
      readAnswers := rest, lastErr := .timeout, curOp := .none, phase := .idle,
      trace := s.trace ++ [.done s.curOp .timeout] } := by
  have hreached : ({ s with readAnswers := rest } : State).capReached = true := (State.capReached_iff _).mpr hc
  simp [State.answerStatus, ha, hb, hreached, State.complete_of_ne_ok]

/-- A busy answer below the cap leads to the next read (R112). -/
theorem State.answerStatus_of_busy_below_cap (hb : busy s.cfg.busyMode b = true)
    (hc : ¬ ∃ cap, s.cfg.pollCap = some cap ∧ cap ≤ s.pollCnt) :
    s.answerStatus (.ok b) = { s with readAnswers := rest, phase := .pollReq } := by
  have hbelow : ¬ ({ s with readAnswers := rest } : State).capReached = true := mt (State.capReached_iff _).mp hc
  simp [State.answerStatus, ha, hb, hbelow]

end Answers

/-- Settles O31: the four cases of the answer, and the step that handles it. -/
theorem statusAnswerIsHandled : Obligations.StatusAnswerIsHandled := by
  refine fun s rest hp => ⟨fun b ha => ⟨?_, fun ts hw ht => ?_⟩, fun ts hw ht ha => ?_⟩
  · rw [exec_busStatusRead_of_answer hp ha]
    split
    case isTrue hb => rw [State.answerStatus_of_ready ha hb]
    case isFalse hb =>
      rw [Bool.not_eq_false] at hb
      split
      case isTrue hc => rw [State.answerStatus_of_busy_at_cap ha hb hc]
      case isFalse hc => rw [State.answerStatus_of_busy_below_cap ha hb hc]
  · exact step_eq_exec_busStatusRead hw ht hp ha
  · rw [step_of_answer hw ht hp ha, State.answerStatus_err (s := s.withTurns ts) ha]
    rfl

/-! ### The reads of a handshake -/

/-- A read and its answer are two turns of the sequencer. -/
theorem stepMany_statusRead {s : State} {answer : ReadAnswer} {rest : List ReadAnswer} {ts : List Turn}
    (hw : s.cfg.wf = true) (hp : s.phase = .pollReq) (ha : s.readAnswers = answer :: rest)
    (ht : s.turns = .sequencer :: .sequencer :: ts) :
    stepMany 2 s = .next ((s.withTurns ts).requestStatus.answerStatus answer) := by
  rw [stepMany_succ 1 (step_of_pollReq hw ht hp)]
  exact stepMany_succ 0
    (step_of_answer (s := (s.withTurns (.sequencer :: ts)).requestStatus) hw rfl rfl ha)

/-- The handshake after `n` busy reads below the cap: it asks for the next one. -/
def State.retried (s : State) (n : Nat) (rest : List ReadAnswer) (ts : List Turn) : State :=
  { s with
    phase := .pollReq, pollCnt := s.pollCnt + n, readAnswers := rest, turns := ts,
    trace := s.trace ++ List.replicate n (.busRead s.cfg.busAddr) }

/-- A busy read below the cap is retried. -/
theorem stepMany_busyRead {s : State} {b : Byte} {rest : List ReadAnswer} {ts : List Turn} (hw : s.cfg.wf = true)
    (hp : s.phase = .pollReq) (hb : busy s.cfg.busyMode b = true)
    (hcap : ∀ cap, s.cfg.pollCap = some cap → s.pollCnt + 1 < cap) (ha : s.readAnswers = .ok b :: rest)
    (ht : s.turns = .sequencer :: .sequencer :: ts) : stepMany 2 s = .next (s.retried 1 rest ts) := by
  have hbelow : ¬ ∃ cap, s.cfg.pollCap = some cap ∧ cap ≤ s.pollCnt + 1 :=
    fun ⟨cap, hc, hle⟩ => Nat.not_le.mpr (hcap cap hc) hle
  rw [stepMany_statusRead hw hp ha ht]
  exact congrArg Host.Outcome.next
    (State.answerStatus_of_busy_below_cap (s := (s.withTurns ts).requestStatus) ha hb hbelow)

/-- A ready read leads to the emission's first entry. -/
theorem stepMany_readyRead {s : State} {b : Byte} {rest : List ReadAnswer} {ts : List Turn} (hw : s.cfg.wf = true)
    (hp : s.phase = .pollReq) (hb : busy s.cfg.busyMode b = false) (ha : s.readAnswers = .ok b :: rest)
    (ht : s.turns = .sequencer :: .sequencer :: ts) : stepMany 2 s = .next { s with
      phase := .emit, seqIdx := 0, pollCnt := s.pollCnt + 1, readAnswers := rest, turns := ts,
      trace := s.trace ++ [.busRead s.cfg.busAddr] } := by
  rw [stepMany_statusRead hw hp ha ht]
  exact congrArg Host.Outcome.next (State.answerStatus_of_ready (s := (s.withTurns ts).requestStatus) ha hb)

/-- One more busy read in front of the others. -/
theorem State.retried_retried_one (s : State) (n : Nat) (as rest : List ReadAnswer) (us ts : List Turn) :
    (s.retried 1 as us).retried n rest ts = s.retried (n + 1) rest ts := by
  simp [State.retried, List.replicate_succ, Nat.add_assoc, Nat.add_comm 1 n]

/-- Busy reads below the cap are retried one after the other, by induction on their bytes. -/
theorem stepMany_busyReads (bs : List Byte) {s : State} {rest : List ReadAnswer} {ts : List Turn}
    (hw : s.cfg.wf = true) (hp : s.phase = .pollReq) (hb : ∀ x ∈ bs, busy s.cfg.busyMode x = true)
    (hcap : ∀ cap, s.cfg.pollCap = some cap → s.pollCnt + bs.length < cap)
    (ha : s.readAnswers = bs.map .ok ++ rest) (ht : s.turns = List.replicate (2 * bs.length) .sequencer ++ ts) :
    stepMany (2 * bs.length) s = .next (s.retried bs.length rest ts) := by
  induction bs generalizing s with
  | nil =>
    obtain rfl : s.readAnswers = rest := ha
    obtain rfl : s.turns = ts := ht
    simp [State.retried, ← hp]
  | cons x bs ih =>
    obtain ⟨hx, hbs⟩ := List.forall_mem_cons.mp hb
    rw [List.length_cons] at hcap
    have hround : stepMany 2 s =
        .next (s.retried 1 (bs.map .ok ++ rest) (List.replicate (2 * bs.length) .sequencer ++ ts)) :=
      stepMany_busyRead hw hp hx (fun cap hc => by have := hcap cap hc; omega) ha ht
    have hcap' (cap : Nat) (hc : s.cfg.pollCap = some cap) : s.pollCnt + 1 + bs.length < cap := by
      have := hcap cap hc
      omega
    rw [List.length_cons, Nat.mul_succ, Nat.add_comm, stepMany_add hround,
      ih (s := s.retried 1 _ _) hw rfl hbs hcap' rfl rfl, State.retried_retried_one]

/-- Settles O32: the busy reads are retried below the cap, and one more read and its answer lead to the emission. -/
theorem handshakeReadsUntilReady : Obligations.HandshakeReadsUntilReady := by
  intro s bs b rest ts hw hp hcnt hbs hb hcap ha ht
  have hturns : s.turns = List.replicate (2 * bs.length) .sequencer ++ .sequencer :: .sequencer :: ts := by
    rw [ht, Nat.mul_succ, ← List.replicate_append_replicate, List.append_assoc]
    rfl
  have hbusy := stepMany_busyReads bs hw hp hbs (fun cap hc => by have := hcap cap hc; omega) ha hturns
  rw [Nat.mul_succ, stepMany_add hbusy, stepMany_readyRead (s := s.retried _ _ _) hw rfl hb rfl rfl]
  simp [State.retried, hcnt, List.replicate_succ']

end Sys2Proof.Machine

/-! PROOFS. The statements of spec/44_sequencer.md: what each agent's turn runs, how a bus request faults or starts its
operation, how the emission runs to its end, alone or among held words, and INIT and a first frame from reset. -/

namespace Sys2Proof.Machine

/-! ### The turns of the two agents -/

theorem State.hostTurn_of_decodeRequest {s : State} {w : Hrw} {ws : List Hrw} {i : Instr} (hr : s.requests = w :: ws)
    (hd : decodeRequest w = .ok i) : s.hostTurn = exec i s := by
  simp [State.hostTurn, hr, hd]

/-- Settles O12: the host's turn decodes the word on the port and runs it. -/
theorem hostTurnRunsTheDecodedRequest : Obligations.HostTurnRunsTheDecodedRequest := fun s _ _ ts _ hw ht hr hd =>
  (step_of_turn hw ht).trans (State.hostTurn_of_decodeRequest (s := s.withTurns ts) hr hd)

theorem State.sequencerTurn_of_dueEntry {s : State} {c b : Byte} {i : Instr} (hd : s.dueEntry = some (c, b))
    (hi : decodeBusWrite c b = .ok i) : s.sequencerTurn = exec i s := by
  have hp := (State.dueEntry_eq_some.mp hd).1
  simp [State.sequencerTurn, hp, hd, hi]

/-- Settles O13: the sequencer's turn in EMIT decodes the due entry's bytes and runs them. -/
theorem sequencerTurnRunsTheDueWrite : Obligations.SequencerTurnRunsTheDueWrite := fun s ts _ _ _ hw ht hd hi =>
  (step_of_turn hw ht).trans (State.sequencerTurn_of_dueEntry (s := s.withTurns ts) hd hi)

/-! ### Bus requests -/

/-- Settles O24: of these requests each starts an operation that does not poll. -/
theorem emissionRequestsStart : Obligations.EmissionRequestsStart := by
  refine fun s flag hp => ⟨fun hdone => ?init, fun hdone => ?contrast, fun hdone => ?invert, fun hdone => ?stopScroll⟩
  all_goals exact congrArg Host.Outcome.next (State.attend_acceptBus_of_idle _ hp (by simp [hdone]))

/-- Every bus request is attended to by the checks of R118 and the start of its operation. -/
theorem exec_of_busRequestOp {i : Instr} {op : Op} (h : busRequestOp i = some op) :
    ∃ latch, ∀ s, exec i s = .next (s.attend fun t => t.acceptBus op latch) := by
  cases i
  case init | pushFrame | setContrast | invert | scrollRight | stopScroll =>
    cases h
    exact ⟨_, fun _ => rfl⟩
  all_goals cases h

/-- Settles O25: in each of the three situations the other cases of `State.acceptBus_cases` are excluded. -/
theorem busRequestsFaultInOrder : Obligations.BusRequestsFaultInOrder := by
  intro s i op hop
  obtain ⟨latch, hexec⟩ := exec_of_busRequestOp hop
  have hfault {code : FaultCode} (ha : s.attends) (hs : s.acceptBus op latch = s.raise code) :
      ∃ t, exec i s = .next t ∧ s.faulted t code :=
    ⟨_, by rw [hexec, State.attend_of_attends _ ha, hs], s.raise_faulted code⟩
  have hcases := s.acceptBus_cases op latch
  refine ⟨fun hp => hfault (.inr hp) ?overlap, fun hp ho hi => hfault (.inl hp) ?reinit,
    fun hp ho hi => hfault (.inl hp) ?notInitialized⟩
  case overlap => simpa [hp] using hcases
  case reinit => simpa [hp, ho, hi] using hcases
  case notInitialized => simpa [hp, ho, hi] using hcases

/-! ### Held words -/

theorem State.hostTurn_of_emit {s : State} (hp : s.phase = .emit) : s.hostTurn = .next s := by
  obtain ⟨-, hs⟩ | ⟨_, _, _, -, -, hs⟩ | ⟨_, _, i, -, hd, hs⟩ := s.hostTurn_cases
  · exact hs
  · rw [hs, State.attend_emit _ hp]
  · obtain ⟨effect, hexec⟩ := exec_of_decodeRequest hd
    rw [hs, hexec, State.attend_emit _ hp]

theorem step_of_host_emit {s : State} {ts : List Turn} (hw : s.cfg.wf = true) (hp : s.phase = .emit)
    (ht : s.turns = .host :: ts) : step s = .next (s.withTurns ts) :=
  (step_of_turn hw ht).trans (State.hostTurn_of_emit (s := s.withTurns ts) hp)

/-- Settles O26: whether the port is empty, its word illegal or legal, attending to it in EMIT does nothing. -/
theorem emitHoldsEveryWord : Obligations.EmitHoldsEveryWord := by
  refine ⟨fun s ts => step_of_host_emit, fun s w i hp hd => ?_⟩
  obtain ⟨effect, hexec⟩ := exec_of_decodeRequest hd
  rw [hexec, State.attend_emit _ hp]

/-! ### The due write -/

theorem exec_of_dueEntry {s : State} {c b : Byte} {i : Instr} (hd : s.dueEntry = some (c, b))
    (hi : decodeBusWrite c b = .ok i) : exec i s = .next (s.sendEntry c b) := by
  rw [exec_busWrite hi, State.sendIfDue, if_pos hd]

/-- Settles O37: the due write is sent, and its answer decides which lemma about `State.sendEntry` applies. -/
theorem dueWriteIsSent : Obligations.DueWriteIsSent := by
  intro s c b i rest hw hd hi
  rw [exec_of_dueEntry hd hi]
  refine ⟨fun ha => ?_, fun ha => ?_, fun ha => ?_, fun ts ht => sequencerTurnRunsTheDueWrite s ts c b i hw ht hd hi⟩
  · rw [State.sendEntry_ok hw hd ha]
  · rw [State.sendEntry_err ha]
  · rw [State.sendEntry_wait ha]

/-! ### Runs of the emission -/

/-- A run and then one more step. -/
theorem stepMany_concat {n : Nat} {s t u : State} (h : stepMany n s = .next t) (hlast : step t = .next u) :
    stepMany (n + 1) s = .next u :=
  (stepMany_add h).trans (stepMany_succ 0 hlast)

section Acknowledged

variable {s : State} {rest : List WriteAnswer} {ts : List Turn} (hw : s.cfg.wf = true) (hp : s.phase = .emit)
include hw hp

/-- With its write acknowledged, a turn of the sequencer in EMIT is one entry of the list (R120). -/
theorem step_of_acknowledged (hl : s.seqIdx.toNat < s.emissionList.length) (ha : s.writeAnswers = .ok :: rest)
    (ht : s.turns = .sequencer :: ts) : step s = .next ((s.advanced 1).withTurns ts) := by
  obtain ⟨c, b, i, hd, hi⟩ := State.dueEntry_of_emit hp hl
  obtain ⟨hok, -⟩ := dueWriteIsSent (s.withTurns ts) c b i rest hw hd hi
  rw [sequencerTurnRunsTheDueWrite s ts c b i hw ht hd hi, hok ha, State.advanced_withTurns]

variable {n : Nat} (hl : s.seqIdx.toNat + n < s.emissionList.length)
include hl

/-- After `n` writes, fewer than are left, a turn of the host changes nothing. -/
theorem step_host_advanced : step ((s.advanced n).withTurns (.host :: ts)) = .next ((s.advanced n).withTurns ts) := by
  have hemit := State.advanced_emit hl
  exact step_of_host_emit (by rw [hemit]; exact hw) (by rw [hemit]; exact hp) rfl

/-- After `n` writes, fewer than are left, a turn of the sequencer is one more. -/
theorem step_sequencer_advanced (ha : s.writeAnswers = List.replicate n WriteAnswer.ok ++ WriteAnswer.ok :: rest) :
    step ((s.advanced n).withTurns (.sequencer :: ts)) = .next ((s.advanced (n + 1)).withTurns ts) := by
  have hemit := State.advanced_emit hl
  have hidx : (s.advanced n).seqIdx.toNat < (s.advanced n).emissionList.length := by
    rwa [State.advanced_seqIdx_toNat hw hl.le, State.advanced_emissionList hl]
  have hans : (s.advanced n).writeAnswers = .ok :: rest := by
    rw [hemit, ha]
    exact List.drop_left' List.length_replicate
  calc step ((s.advanced n).withTurns (.sequencer :: ts))
      = .next ((((s.advanced n).withTurns (.sequencer :: ts)).advanced 1).withTurns ts) :=
        step_of_acknowledged (by rw [hemit]; exact hw) (by rw [hemit]; exact hp) hidx hans rfl
    _ = .next (((s.advanced n).advanced 1).withTurns ts) := by rw [State.advanced_withTurns]; rfl
    _ = .next ((s.advanced (n + 1)).withTurns ts) := by rw [State.advanced_add hw hl]

end Acknowledged

/-- Settles O44: by induction on the turns, the last of them being the host's or the sequencer's. -/
theorem heldWordsDoNotChangeTheFrame : Obligations.HeldWordsDoNotChangeTheFrame := by
  intro s turns ts rest hw hp hr hl ha ht
  induction turns using List.reverseRecOn generalizing ts rest with
  | nil =>
    obtain rfl : s.turns = ts := ht
    rw [List.count_nil, State.advanced_zero hl]
    rfl
  | append_singleton turns turn ih =>
    obtain ⟨hturns, hlast⟩ := List.forall_mem_append.mp hr
    rw [List.append_assoc] at ht
    rw [List.count_append] at hl ha ⊢
    rw [List.length_append, List.length_singleton]
    cases turn with
    | reset => exact absurd rfl (hlast .reset (List.mem_singleton_self _))
    | host => exact stepMany_concat (ih _ rest hturns hl ha ht) (step_host_advanced hw hp hl)
    | sequencer =>
      have hlt : s.seqIdx.toNat + turns.count .sequencer < s.emissionList.length := Nat.lt_of_succ_lt hl
      rw [List.count_singleton_self, List.replicate_succ', List.append_assoc] at ha
      exact stepMany_concat (ih _ _ hturns hlt ha ht) (step_sequencer_advanced hw hp hlt ha)

/-- Settles O42: the run short of its last write, which is a run without turns of the host, and that write; it
completes the operation where `State.advanced` says so. -/
theorem emissionRunsInOrder : Obligations.EmissionRunsInOrder := by
  intro s n rest ts hw hp hn hl ha ht
  obtain ⟨m, rfl⟩ := Nat.exists_eq_add_one.mpr hn
  rw [List.replicate_succ', List.append_assoc] at ha ht
  have hrun := heldWordsDoNotChangeTheFrame s (List.replicate m .sequencer) (.sequencer :: ts) (.ok :: rest) hw hp
    (fun turn h => by simp [List.eq_of_mem_replicate h])
  rw [List.count_replicate_self, List.length_replicate] at hrun
  exact stepMany_concat (hrun hl ha ht) (step_sequencer_advanced hw hp hl ha)

/-! ### A whole operation -/

/-- The operation in flight has sent its whole list and completed with OK (R121). -/
def State.emitted (s : State) (rest : List WriteAnswer) (ts : List Turn) : State :=
  { s with
    seqIdx := BitVec.ofNat 13 s.emissionList.length, writeAnswers := rest, turns := ts, phase := .idle, curOp := .none,
    lastErr := .ok, initDone := s.initDone || s.curOp == .init,
    trace := s.trace ++ sentEntries s.cfg s.emissionList ++ [.done s.curOp .ok] }

/-- From entry 0, a turn of the sequencer and an acknowledgement for each entry send the whole list. -/
theorem stepMany_emission {s : State} {n : Nat} {rest : List WriteAnswer} {ts : List Turn} (hw : s.cfg.wf = true)
    (hp : s.phase = .emit) (h0 : s.seqIdx = 0) (hn : 0 < n) (hl : s.emissionList.length = n)
    (ha : s.writeAnswers = List.replicate n WriteAnswer.ok ++ rest)
    (ht : s.turns = List.replicate n Turn.sequencer ++ ts) :
    stepMany n s = .next (s.emitted rest ts) := by
  have hidx : s.seqIdx.toNat + n = s.emissionList.length := by rw [h0, hl]; exact Nat.zero_add n
  have hrest : s.writeAnswers.drop n = rest := by rw [ha]; exact List.drop_left' List.length_replicate
  rw [emissionRunsInOrder s n rest ts hw hp hn hidx.le ha ht, State.advanced, if_pos hidx, hidx, hrest, h0, ← hl]
  simp [State.withTurns, State.emitted]

/-- A push that has started and whose first status read was ready: its list is due (R112). -/
def State.pushReady (s : State) (ras : List ReadAnswer) : State :=
  { s.startOp .push id with
    phase := .emit, seqIdx := 0, pollCnt := 1, readAnswers := ras,
    trace := s.trace ++ [.response .ack] ++ [.busRead s.cfg.busAddr] }

/-- What the INIT and the PUSHFRAME of R128 leave: the block idle and initialized, and the transactions sent. -/
def State.firstFrame (s : State) (ws : List Hrw) (ras : List ReadAnswer) (rest : List WriteAnswer) (ts : List Turn) :
    State :=
  { s with
    phase := .idle, curOp := .none, lastErr := .ok, initDone := true, seqIdx := BitVec.ofNat 13 (6 + s.cfg.fbLen),
    pollCnt := 1, requests := ws, turns := ts, writeAnswers := rest, readAnswers := ras,
    trace := s.trace ++ [.response .ack] ++ sentEntries s.cfg ({ s with curOp := .init } : State).emissionList ++
      [.done .init .ok, .response .ack, .busRead s.cfg.busAddr] ++
      sentEntries s.cfg ({ s with curOp := .push } : State).emissionList ++ [.done .push .ok] }

section Operations

variable {s : State} {ws : List Hrw} {ts : List Turn} {rest : List WriteAnswer} (hw : s.cfg.wf = true)
  (hp : s.phase = .idle)
include hw hp

/-- In IDLE the host's turn starts the operation of a bus request that fits INIT_DONE (R118). -/
theorem step_of_busRequest {w : Hrw} {i : Instr} {op : Op} {latch : State → State} (hd : decodeRequest w = .ok i)
    (hexec : ∀ u, exec i u = .next (u.attend fun t => t.acceptBus op latch)) (hi : op = .init ↔ s.initDone = false)
    (hr : s.requests = w :: ws) (ht : s.turns = .host :: ts) :
    step s = .next ((s.withTurns ts).startOp op latch) := by
  rw [hostTurnRunsTheDecodedRequest s w ws ts i hw ht hr hd, hexec,
    State.attend_acceptBus_of_idle (s := s.withTurns ts) latch hp hi]

/-- INIT is accepted and sends its 25 entries (R122). -/
theorem stepMany_init (hdone : s.initDone = false) (hr : s.requests = 0x1000000000000000 :: ws)
    (ht : s.turns = Turn.host :: (List.replicate 25 Turn.sequencer ++ ts))
    (ha : s.writeAnswers = List.replicate 25 WriteAnswer.ok ++ rest) :
    stepMany (1 + 25) s = .next ((s.startOp .init id).emitted rest ts) := by
  have hstart := step_of_busRequest hw hp (i := .init) rfl (fun _ => rfl) (by simp [hdone]) hr ht
  rw [stepMany_add (stepMany_succ 0 hstart)]
  exact stepMany_emission hw rfl rfl (by decide) (State.emissionList_length _) ha rfl

/-- PUSHFRAME is accepted, reads the status once and sends its `6 + FB_LEN` entries (R123). -/
theorem stepMany_pushFrame {n : Nat} {b : Byte} {ras : List ReadAnswer} (hdone : s.initDone = true)
    (hn : 6 + s.cfg.fbLen = n) (hr : s.requests = 0x5000000000000000 :: ws)
    (ht : s.turns = Turn.host :: Turn.sequencer :: Turn.sequencer :: (List.replicate n Turn.sequencer ++ ts))
    (ha : s.writeAnswers = List.replicate n .ok ++ rest) (hra : s.readAnswers = .ok b :: ras)
    (hb : busy s.cfg.busyMode b = false) :
    stepMany (1 + (2 + n)) s = .next ((s.pushReady ras).emitted rest ts) := by
  have hstart := step_of_busRequest hw hp (i := .pushFrame) rfl (fun _ => rfl) (by simp [hdone]) hr ht
  have hread := stepMany_readyRead
    (s := (s.withTurns (_ :: _ :: (List.replicate n Turn.sequencer ++ ts))).startOp .push id) hw rfl hb hra rfl
  rw [stepMany_add (stepMany_succ 0 hstart), stepMany_add hread]
  exact stepMany_emission hw rfl rfl (by omega) ((State.emissionList_length _).trans hn) ha rfl

/-- INIT and then PUSHFRAME, from IDLE to IDLE. -/
theorem stepMany_init_pushFrame {n : Nat} {b : Byte} {ras : List ReadAnswer} (hdone : s.initDone = false)
    (hn : 6 + s.cfg.fbLen = n) (hr : s.requests = 0x1000000000000000 :: 0x5000000000000000 :: ws)
    (ht : s.turns = Turn.host :: (List.replicate 25 Turn.sequencer ++
      Turn.host :: Turn.sequencer :: Turn.sequencer :: (List.replicate n Turn.sequencer ++ ts)))
    (ha : s.writeAnswers = List.replicate 25 WriteAnswer.ok ++ (List.replicate n WriteAnswer.ok ++ rest))
    (hra : s.readAnswers = .ok b :: ras) (hb : busy s.cfg.busyMode b = false) :
    stepMany (1 + 25 + (1 + (2 + n))) s = .next (s.firstFrame ws ras rest ts) := by
  have hlen : (emissionOf s.cfg s.fb s.argF s.argStart s.argStop .push).length = 6 + s.cfg.fbLen :=
    State.emissionList_length { s with curOp := .push }
  rw [stepMany_add (stepMany_init hw hp hdone hr ht ha),
    stepMany_pushFrame (s := (s.startOp .init id).emitted _ _) (rest := rest) (ts := ts) hw rfl (Bool.or_true _) hn
      (congrArg List.tail hr) rfl rfl hra hb]
  simp [State.emitted, State.pushReady, State.firstFrame, State.startOp, Op.polls, State.respond, State.takeRequest,
    State.send, State.emissionList, hr, hlen]

end Operations

/-! ### From reset to the first frame -/

theorem sentEntries_append (cfg : Config) (l l' : List (Byte × Byte)) :
    sentEntries cfg (l ++ l') = sentEntries cfg l ++ sentEntries cfg l' :=
  List.map_append

/-- Acknowledged writes are transactions. -/
theorem filter_isTransaction_sentEntries (cfg : Config) (entries : List (Byte × Byte)) :
    (sentEntries cfg entries).filter PortEvent.isTransaction = sentEntries cfg entries :=
  List.filter_eq_self.mpr fun _ he => by
    obtain ⟨_, -, rfl⟩ := List.mem_map.mp he
    rfl

theorem State.status_firstFrame {s : State} (ws : List Hrw) (ras : List ReadAnswer) (rest : List WriteAnswer)
    (ts : List Turn) (hf : s.fault = .none) : (s.firstFrame ws ras rest ts).status = 0x0008 := by
  change 0#4 ++ Op.none.code ++ s.fault.code ++ Result.ok.code ++ BitVec.ofBool true ++ Phase.idle.code = 0x0008
  rw [hf]
  decide

/-- The transactions among what the first frame sends, if there was none before. -/
theorem State.filter_isTransaction_firstFrame {s : State} (ws : List Hrw) (ras : List ReadAnswer)
    (rest : List WriteAnswer) (ts : List Turn) (h : s.trace = []) :
    (s.firstFrame ws ras rest ts).trace.filter PortEvent.isTransaction =
      sentEntries s.cfg ({ s with curOp := .init } : State).emissionList ++ [.busRead s.cfg.busAddr] ++
        sentEntries s.cfg ({ s with curOp := .push } : State).emissionList := by
  simp [State.firstFrame, h, filter_isTransaction_sentEntries, PortEvent.isTransaction, List.filter_cons]

/-- Settles O45: `stepMany_init_pushFrame`, the two lists being those of the default parameters, where FB_LEN is 512. -/
theorem initThenPushEndToEnd : Obligations.InitThenPushEndToEnd := by
  intro fb s
  have ht : s.turns = Turn.host :: (List.replicate 25 Turn.sequencer ++
      Turn.host :: Turn.sequencer :: Turn.sequencer :: (List.replicate 518 Turn.sequencer ++ [])) := by
    rw [List.append_nil]
    rfl
  have ha : s.writeAnswers = List.replicate 25 WriteAnswer.ok ++ (List.replicate 518 WriteAnswer.ok ++ []) := by
    rw [List.append_nil, List.replicate_append_replicate]
  have hfb : Config.default.fbLen = 512 := by decide
  have hrun := stepMany_init_pushFrame (s := s) (n := 518) rfl rfl rfl (congrArg (6 + ·) hfb) rfl ht ha rfl rfl
  obtain ⟨hinit, -⟩ := emissionListsAreTheSpecsSequences.2 { s with curOp := .init } rfl
  obtain ⟨-, hpush, -⟩ := emissionListsAreTheSpecsSequences.2 { s with curOp := .push } rfl
  refine ⟨_, hrun, ?_, rfl, rfl, rfl, rfl, congrArg (fun k => BitVec.ofNat 13 (6 + k)) hfb, rfl,
    State.status_firstFrame _ _ _ _ rfl⟩
  rw [State.filter_isTransaction_firstFrame _ _ _ _ rfl, hinit rfl, hpush rfl, sentEntries_append,
    ← List.append_assoc]
  rfl

end Sys2Proof.Machine

/-! PROOFS. The statements of spec/60_exceptions.md: the halted block, the handshake that times out, the write that
fails, and when DONE is sent. -/

namespace Sys2Proof.Machine

/-! ### The halted block -/

theorem State.sendIfDue_of_phase_ne_emit {s : State} (hp : s.phase ≠ .emit) (c b : Byte) : s.sendIfDue c b = s :=
  if_neg fun hd => hp (State.dueEntry_eq_some.mp hd).1

theorem State.sendCommand_of_phase_ne_emit {s : State} (hp : s.phase ≠ .emit) (i : Instr) : s.sendCommand i = s :=
  if_neg fun hd => hp hd.1

/-- In HALTED a request is not accepted and a transaction is not due (R131). -/
theorem exec_of_halted {s : State} (hp : s.phase = .halted) (i : Instr) : exec i s = .next s := by
  have hne : s.phase ≠ .emit := by simp [hp]
  cases i
  case init | clear | setPixel | drawLine | pushFrame | setContrast | invert | scrollRight | stopScroll | fbRead |
      fbWrite => exact congrArg Host.Outcome.next (State.attend_halted _ hp)
  case busCmdWrite payload | busDataWrite payload =>
    exact congrArg Host.Outcome.next (State.sendIfDue_of_phase_ne_emit hne _ payload)
  case busStatusRead status => simp [exec, execBusStatusRead, hp]
  all_goals exact congrArg Host.Outcome.next (State.sendCommand_of_phase_ne_emit hne _)

/-- Settles O27: `State.takeTurn_of_halted` for the turns and `exec_of_halted` for the instructions. -/
theorem haltedBlockTakesNoStep : Obligations.HaltedBlockTakesNoStep :=
  ⟨fun s _ ts hw hp ht hne => (step_of_turn hw ht).trans (State.takeTurn_of_halted (s := s.withTurns ts) hp hne),
    fun _ i hp => exec_of_halted hp i⟩

/-! ### The handshake that times out -/

/-- A busy read at the cap ends the operation with TIMEOUT (R133). -/
theorem stepMany_busyRead_at_cap {s : State} {b : Byte} {rest : List ReadAnswer} {ts : List Turn}
    (hw : s.cfg.wf = true) (hp : s.phase = .pollReq) (hb : busy s.cfg.busyMode b = true)
    (hcap : s.cfg.pollCap = some (s.pollCnt + 1)) (ha : s.readAnswers = .ok b :: rest)
    (ht : s.turns = .sequencer :: .sequencer :: ts) : stepMany 2 s = .next { s with
      phase := .idle, curOp := .none, lastErr := .timeout, pollCnt := s.pollCnt + 1, readAnswers := rest, turns := ts,
      trace := s.trace ++ [.busRead s.cfg.busAddr] ++ [.done s.curOp .timeout] } := by
  rw [stepMany_statusRead hw hp ha ht]
  exact congrArg Host.Outcome.next
    (State.answerStatus_of_busy_at_cap (s := (s.withTurns ts).requestStatus) ha hb ⟨_, hcap, le_rfl⟩)

/-- Busy reads up to the cap: all but the last are retried, and the last ends the operation. -/
theorem stepMany_busyReads_to_cap (bs : List Byte) {b : Byte} {s : State} {rest : List ReadAnswer} {ts : List Turn}
    (hw : s.cfg.wf = true) (hp : s.phase = .pollReq) (hb : ∀ x ∈ bs ++ [b], busy s.cfg.busyMode x = true)
    (hcap : s.cfg.pollCap = some (s.pollCnt + (bs.length + 1))) (ha : s.readAnswers = bs.map .ok ++ .ok b :: rest)
    (ht : s.turns = List.replicate (2 * (bs.length + 1)) .sequencer ++ ts) :
    stepMany (2 * (bs.length + 1)) s = .next { s with
      phase := .idle, curOp := .none, lastErr := .timeout, pollCnt := s.pollCnt + (bs.length + 1),
      readAnswers := rest, turns := ts,
      trace := s.trace ++ List.replicate (bs.length + 1) (.busRead s.cfg.busAddr) ++ [.done s.curOp .timeout] } := by
  obtain ⟨hbs, hlast⟩ := List.forall_mem_append.mp hb
  have hturns : s.turns = List.replicate (2 * bs.length) .sequencer ++ .sequencer :: .sequencer :: ts := by
    rw [ht, Nat.mul_succ, ← List.replicate_append_replicate, List.append_assoc]
    rfl
  have hbelow (cap : Nat) (hc : s.cfg.pollCap = some cap) : s.pollCnt + bs.length < cap := by
    cases hcap.symm.trans hc
    omega
  rw [Nat.mul_succ, stepMany_add (stepMany_busyReads bs hw hp hbs hbelow ha hturns),
    stepMany_busyRead_at_cap (s := s.retried _ _ _) hw rfl (hlast b (List.mem_singleton_self b)) hcap rfl rfl]
  simp [State.retried, List.replicate_succ', Nat.add_assoc]

/-- Settles O33: the cap is at least 1, so that there is a last busy read to reach it; without a cap all are retried. -/
theorem handshakeTimesOutAtTheCap : Obligations.HandshakeTimesOutAtTheCap := by
  constructor
  · intro s bs rest ts hw hp hcnt hcap hb ha ht
    obtain rfl | ⟨bs, b, rfl⟩ := bs.eq_nil_or_concat'
    · exact absurd (Config.zero_lt_pollCap hw hcap) (Nat.lt_irrefl 0)
    · rw [List.length_append, List.length_singleton] at hcap ht ⊢
      rw [List.map_append, List.append_assoc] at ha
      rw [stepMany_busyReads_to_cap (rest := rest) bs hw hp hb (by rw [hcap, hcnt, Nat.zero_add]) ha ht, hcnt,
        Nat.zero_add]
  · intro s bs rest ts hw hp hcap hb ha ht
    rw [stepMany_busyReads bs hw hp hb (by simp [hcap]) ha ht, State.retried, ← hp]

/-! ### The write that fails -/

/-- With ERR for its write, a turn of the sequencer in EMIT ends the operation with TRANSPORT (R134). -/
theorem step_of_failed_write {s : State} {c b : Byte} {rest : List WriteAnswer} {ts : List Turn}
    (hw : s.cfg.wf = true) (hd : s.dueEntry = some (c, b)) (ha : s.writeAnswers = .err :: rest)
    (ht : s.turns = .sequencer :: ts) : step s = .next { s with
      writeAnswers := rest, turns := ts, lastErr := .transport, curOp := .none, phase := .idle,
      trace := s.trace ++ [.busWrite s.cfg.busAddr c b .err, .done s.curOp .transport] } := by
  obtain ⟨i, hi⟩ := decodeBusWrite_of_control b (State.emissionList_control (State.dueEntry_mem hd))
  obtain ⟨-, herr, -⟩ := dueWriteIsSent (s.withTurns ts) c b i rest hw hd hi
  rw [sequencerTurnRunsTheDueWrite s ts c b i hw ht hd hi, herr ha]
  rfl

/-- Acknowledged writes, fewer than are left, are as many turns of the sequencer. -/
theorem stepMany_acknowledged {s : State} {n : Nat} {rest : List WriteAnswer} {ts : List Turn} (hw : s.cfg.wf = true)
    (hp : s.phase = .emit) (hl : s.seqIdx.toNat + n < s.emissionList.length)
    (ha : s.writeAnswers = List.replicate n .ok ++ rest) (ht : s.turns = List.replicate n .sequencer ++ ts) :
    stepMany n s = .next ((s.advanced n).withTurns ts) := by
  have hrun := heldWordsDoNotChangeTheFrame s (List.replicate n .sequencer) ts rest hw hp
    (fun turn h => by simp [List.eq_of_mem_replicate h])
  rw [List.count_replicate_self, List.length_replicate] at hrun
  exact hrun hl ha ht

/-- Settles O43: the acknowledged writes leave the operation in EMIT with the failing entry due. -/
theorem transportErrorEndsTheOperation : Obligations.TransportErrorEndsTheOperation := by
  intro s n rest ts c b hw hp hget ha ht
  have hl : s.seqIdx.toNat + n < s.emissionList.length := (List.getElem?_eq_some_iff.mp hget).1
  have hturns : s.turns = List.replicate n .sequencer ++ .sequencer :: ts := by
    rw [ht, List.replicate_succ', List.append_assoc]
    rfl
  have hemit := State.advanced_emit hl
  have hdue : (s.advanced n).dueEntry = some (c, b) := by
    rw [State.dueEntry_eq_some, State.advanced_seqIdx_toNat hw hl.le, State.advanced_emissionList hl]
    exact ⟨by rw [hemit]; exact hp, hget⟩
  have hans : (s.advanced n).writeAnswers = .err :: rest := by
    rw [hemit, ha]
    exact List.drop_left' List.length_replicate
  have hfailed := step_of_failed_write (s := (s.advanced n).withTurns (.sequencer :: ts)) (by rw [hemit]; exact hw) hdue
    hans rfl
  rw [stepMany_concat (stepMany_acknowledged hw hp hl ha hturns) hfailed, hemit]
  simp [State.withTurns]

/-! ### When DONE is sent -/

/-- From `s` to `t` no operation ends: no DONE is sent, and an operation in flight stays recorded. -/
def State.continuesTo (s t : State) : Prop :=
  (t.curOp = .none → s.curOp = .none) ∧
    ∃ events, t.trace = s.trace ++ events ∧ ∀ op r, PortEvent.done op r ∉ events

/-- From `s` to `t` the operation in flight ends: the last event sent, and no other, is DONE with its code and the
result that LAST_ERR holds (R121). -/
def State.completesTo (s t : State) : Prop :=
  s.curOp ≠ .none ∧ t.curOp = .none ∧
    ∃ events, t.trace = s.trace ++ events ++ [.done s.curOp t.lastErr] ∧ ∀ op r, PortEvent.done op r ∉ events

/-- Where nothing is sent and CUR_OP stays, no operation ends. -/
theorem State.continuesTo_of_eq {s t : State} (hop : t.curOp = s.curOp) (htrace : t.trace = s.trace) :
    s.continuesTo t :=
  ⟨hop.symm.trans, [], by simp [htrace], by simp⟩

/-! #### Requests -/

/-- Neither a response nor a fault is a DONE. -/
theorem State.answered.continuesTo {s t : State} {r : Response} (h : s.answered t r)
    (hop : t.curOp = .none → s.curOp = .none) : s.continuesTo t := by
  obtain ⟨-, htrace⟩ | ⟨-, htrace⟩ := h
  · exact ⟨hop, [.response r], htrace, by simp⟩
  · exact ⟨hop, [], by simp [htrace], by simp⟩

/-- A fault abandons the operation in flight without DONE, but keeps CUR_OP (R129). -/
theorem State.continuesTo_raise (s : State) (code : FaultCode) : s.continuesTo (s.raise code) :=
  State.continuesTo_of_eq rfl rfl

theorem State.continuesTo_attend {s : State} {effect : State → State} (h : s.continuesTo (effect s)) :
    s.continuesTo (s.attend effect) := by
  obtain ⟨-, hs⟩ | ⟨-, hs⟩ := s.attend_cases effect <;> rw [hs]
  · exact h
  · exact State.continuesTo_of_eq rfl rfl

/-- A bus request records its operation, or faults and keeps the one recorded. -/
theorem State.continuesTo_acceptBus (s : State) {op : Op} (hop : op ≠ .none) {latch : State → State}
    (hl : ∀ t, ∃ f a b, latch t = { t with argF := f, argStart := a, argStop := b }) :
    s.continuesTo (s.acceptBus op latch) := by
  refine (s.answered_acceptBus op hl).continuesTo ?_
  obtain ⟨-, hs⟩ | ⟨-, -, -, hs⟩ | ⟨-, -, -, hs⟩ | ⟨-, -, hs⟩ := s.acceptBus_cases op latch <;> rw [hs]
  · exact id
  · exact id
  · exact id
  · obtain ⟨f, a, b, hlatch⟩ := hl { s with curOp := op, lastErr := .ok }
    unfold State.startOp
    rw [hlatch]
    dsimp only
    split <;> exact fun ho => absurd ho hop

/-- A request is an effect that is attended to and ends no operation. -/
theorem exec_request_continuesTo {i : Instr} {w : Hrw} (h : encode i = .request w) :
    ∃ effect : State → State, (∀ s, exec i s = .next (s.attend effect)) ∧ ∀ s : State, s.continuesTo (effect s) := by
  cases i
  case init | pushFrame | setContrast | invert | scrollRight | stopScroll =>
    exact ⟨_, fun _ => rfl, fun s => s.continuesTo_acceptBus (by decide) fun _ => ⟨_, _, _, rfl⟩⟩
  case clear | setPixel | drawLine =>
    exact ⟨_, fun _ => rfl, fun _ => ⟨id, [.response .ack], rfl, by simp⟩⟩
  case fbRead | fbWrite =>
    refine ⟨_, fun _ => rfl, fun s => ?_⟩
    split
    · exact s.continuesTo_raise _
    · exact ⟨id, [.response _], rfl, by simp⟩
  all_goals cases h

/-- Whatever the word on the port, the host's turn ends no operation. -/
theorem State.hostTurn_continuesTo {s t : State} (h : s.hostTurn = .next t) : s.continuesTo t := by
  obtain ⟨-, hs⟩ | ⟨_, _, _, -, -, hs⟩ | ⟨w, _, i, -, hd, hs⟩ := s.hostTurn_cases
  · cases hs.symm.trans h
    exact State.continuesTo_of_eq rfl rfl
  · cases hs.symm.trans h
    exact State.continuesTo_attend (s.continuesTo_raise _)
  · obtain ⟨v, hv⟩ := encode_eq_request_of_decodeRequest hd
    obtain ⟨effect, hexec, hcont⟩ := exec_request_continuesTo hv
    cases (hs.trans (hexec s)).symm.trans h
    exact State.continuesTo_attend (hcont s)

/-! #### Transactions -/

theorem State.continuesTo_requestStatus (s : State) : s.continuesTo s.requestStatus :=
  ⟨id, [.busRead s.cfg.busAddr], rfl, by simp⟩

theorem State.answerStatus_continues_or_completes {s : State} (hop : s.curOp ≠ .none) (answer : ReadAnswer) :
    s.continuesTo (s.answerStatus answer) ∨ s.completesTo (s.answerStatus answer) := by
  obtain ⟨r, -, hs⟩ | ⟨hs, -⟩ | hs := s.answerStatus_cases answer <;> rw [hs]
  · exact .inr ⟨hop, rfl, [], by simp, by simp⟩
  · exact .inl (State.continuesTo_of_eq rfl rfl)
  · exact .inl (State.continuesTo_of_eq rfl rfl)

/-- A due entry is one of an operation in flight. -/
theorem State.curOp_ne_none_of_dueEntry {s : State} {e : Byte × Byte} (h : s.dueEntry = some e) :
    s.curOp ≠ .none := by
  intro hop
  have hmem := State.dueEntry_mem h
  rw [State.emissionList_of_curOp hop] at hmem
  cases hmem

theorem done_not_mem_sentEntries (cfg : Config) (entries : List (Byte × Byte)) (op : Op) (r : Result) :
    PortEvent.done op r ∉ sentEntries cfg entries := by
  simp [sentEntries]

/-- An acknowledged write ends the operation at the end of its list, and nowhere else (R120). -/
theorem State.advanced_one_continues_or_completes {s : State} (hop : s.curOp ≠ .none) :
    s.continuesTo (s.advanced 1) ∨ s.completesTo (s.advanced 1) := by
  unfold State.advanced
  split
  · exact .inr ⟨hop, rfl, _, rfl, done_not_mem_sentEntries _ _⟩
  · exact .inl ⟨id, _, rfl, done_not_mem_sentEntries _ _⟩

theorem State.sendIfDue_continues_or_completes {s : State} (hw : s.cfg.wf = true) (c b : Byte) :
    s.continuesTo (s.sendIfDue c b) ∨ s.completesTo (s.sendIfDue c b) := by
  obtain hs | ⟨hd, -, hs⟩ | ⟨hd, rest, -, hs⟩ := State.sendIfDue_cases (c := c) (b := b) hw <;> rw [hs]
  · exact .inl (State.continuesTo_of_eq rfl rfl)
  · exact State.advanced_one_continues_or_completes (State.curOp_ne_none_of_dueEntry hd)
  · exact .inr ⟨State.curOp_ne_none_of_dueEntry hd, rfl, [.busWrite s.cfg.busAddr c b .err], by simp, by simp⟩

/-- In POLL_WAIT the invariant says that an operation is in flight, and in EMIT its due entry does. -/
theorem State.sequencerTurn_continues_or_completes {s t : State} (hinv : s.Inv) (h : s.sequencerTurn = .next t) :
    s.continuesTo t ∨ s.completesTo t := by
  obtain ⟨-, hs⟩ | ⟨-, hs⟩ | ⟨hp, answer, _, -, hs⟩ | ⟨c, b, -, hs⟩ | ⟨-, -, hs⟩ := s.sequencerTurn_cases <;>
    cases hs.symm.trans h
  · exact .inl (State.continuesTo_of_eq rfl rfl)
  · exact .inl s.continuesTo_requestStatus
  · have hpolls : s.curOp.polls = true := hinv.pollOp (.inr hp)
    exact State.answerStatus_continues_or_completes (fun ho => by simp [ho, Op.polls] at hpolls) answer
  · exact State.sendIfDue_continues_or_completes hinv.cfgOk c b

/-- All that a step other than reset does to the operation in flight: it goes on or ends. -/
theorem step_continues_or_completes {s t : State} (hinv : s.Inv) (h : step s = .next t)
    (hr : s.turns.head? ≠ some .reset) : s.continuesTo t ∨ s.completesTo t := by
  obtain ⟨-, rfl⟩ | ⟨-, turn, ts, ht, hturn⟩ := step_next_cases h
  · exact .inl (State.continuesTo_of_eq rfl rfl)
  · cases turn with
    | host => exact .inl (State.hostTurn_continuesTo (s := s.withTurns ts) hturn)
    | sequencer => exact State.sequencerTurn_continues_or_completes (s := s.withTurns ts) (hinv.withTurns ts) hturn
    | reset => exact absurd (by simp [ht]) hr

/-- Settles O51: a step that ends no operation sends no DONE, and one that ends it sends its DONE last. -/
theorem doneExactlyWhenTheOperationEnds : Obligations.DoneExactlyWhenTheOperationEnds := by
  intro s t hinv h hr
  obtain ⟨hop, events, htrace, hnone⟩ | ⟨hop, hend, events, htrace, hnone⟩ := step_continues_or_completes hinv h hr
  · refine ⟨events, htrace, fun op r hmem => absurd hmem (hnone op r), iff_of_false ?_ ?_⟩
    · exact fun ⟨op, r, hmem⟩ => hnone op r hmem
    · exact fun ⟨hs, ht⟩ => hs (hop ht)
  · refine ⟨events ++ [.done s.curOp t.lastErr], by rw [htrace, List.append_assoc], fun op r hmem => ?_,
      iff_of_true ⟨s.curOp, t.lastErr, by simp⟩ ⟨hop, hend⟩⟩
    obtain hmem | hmem := List.mem_append.mp hmem
    · exact absurd hmem (hnone op r)
    · cases List.mem_singleton.mp hmem
      exact ⟨rfl, rfl, hop⟩

end Sys2Proof.Machine

/-! PROOFS. The statements of spec/70_reset_and_hazards.md: what reset restores and that nothing else leaves HALTED,
and how much of what is sent on the bus a step adds. -/

namespace Sys2Proof.Machine

/-! ### Reset -/

theorem step_of_reset {s : State} {ts : List Turn} (hw : s.cfg.wf = true) (ht : s.turns = .reset :: ts) :
    step s = .next (s.withTurns ts).applyReset :=
  step_of_turn hw ht

/-- Every turn but reset's leaves a halted block halted (R131). -/
theorem reset_of_step_leaves_halted {s t : State} (hp : s.phase = .halted) (h : step s = .next t)
    (hleft : t.phase ≠ .halted) : s.turns.head? = some .reset := by
  obtain ⟨-, rfl⟩ | ⟨-, turn, ts, ht, hturn⟩ := step_next_cases h
  · exact absurd hp hleft
  · by_cases hr : turn = .reset
    · simp [ht, hr]
    · cases (State.takeTurn_of_halted (s := s.withTurns ts) hp hr).symm.trans hturn
      exact absurd hp hleft

/-- Settles O3: the next state is `State.applyReset`, whose elements are the reset values. -/
theorem resetTurnRestoresTheBlock : Obligations.ResetTurnRestoresTheBlock := by
  refine ⟨fun s ts hw ht => ⟨_, step_of_reset hw ht, ?_⟩, fun _ _ => reset_of_step_leaves_halted⟩
  simp +contextual

/-! ### What a step adds to the trace -/

/-- From `s` to `t` nothing is unsent, and at most one bus transaction is sent. -/
def State.sendsAtMostOneTransaction (s t : State) : Prop :=
  ∃ events, t.trace = s.trace ++ events ∧ (events.filter PortEvent.isTransaction).length ≤ 1

theorem State.sendsAtMostOneTransaction_of_trace_eq {s t : State} (h : t.trace = s.trace) :
    s.sendsAtMostOneTransaction t :=
  ⟨[], by simp [h], by simp⟩

/-- Whatever the word on the port, the host's turn sends one response or nothing (R54). -/
theorem State.hostTurn_trace {s t : State} (h : s.hostTurn = .next t) :
    t.trace = s.trace ∨ ∃ r, t.trace = s.trace ++ [.response r] := by
  obtain ⟨-, hs⟩ | ⟨_, _, _, -, -, hs⟩ | ⟨_, _, i, -, hd, hs⟩ := s.hostTurn_cases
  · cases hs.symm.trans h
    exact .inl rfl
  · cases hs.symm.trans h
    exact .inl (State.attend_keeps State.trace rfl)
  · obtain ⟨_, hv⟩ := encode_eq_request_of_decodeRequest hd
    obtain ⟨effect, hexec, hanswered⟩ := exec_request_answered hv
    cases (hs.trans (hexec s)).symm.trans h
    obtain ⟨-, hattend⟩ | ⟨-, hheld⟩ := s.attend_cases effect
    · rw [hattend]
      obtain ⟨-, htrace⟩ | ⟨-, htrace⟩ := hanswered s
      · exact .inr ⟨_, htrace⟩
      · exact .inl htrace
    · exact .inl (congrArg State.trace hheld)

theorem State.hostTurn_sendsAtMostOneTransaction {s t : State} (h : s.hostTurn = .next t) :
    s.sendsAtMostOneTransaction t := by
  obtain htrace | ⟨r, htrace⟩ := State.hostTurn_trace h
  · exact State.sendsAtMostOneTransaction_of_trace_eq htrace
  · exact ⟨[.response r], htrace, by simp [PortEvent.isTransaction]⟩

theorem State.answerStatus_sendsAtMostOneTransaction (s : State) (answer : ReadAnswer) :
    s.sendsAtMostOneTransaction (s.answerStatus answer) := by
  obtain ⟨r, -, hs⟩ | ⟨hs, -⟩ | hs := s.answerStatus_cases answer <;> rw [hs]
  · exact ⟨[.done s.curOp r], rfl, by simp [PortEvent.isTransaction]⟩
  · exact State.sendsAtMostOneTransaction_of_trace_eq rfl
  · exact State.sendsAtMostOneTransaction_of_trace_eq rfl

/-- Of the list's entries an advance by one sends at most one, and the DONE at its end is no transaction. -/
theorem State.advanced_one_sendsAtMostOneTransaction (s : State) : s.sendsAtMostOneTransaction (s.advanced 1) := by
  have hone : (sentEntries s.cfg ((s.emissionList.drop s.seqIdx.toNat).take 1)).length ≤ 1 := by
    rw [sentEntries, List.length_map]
    exact List.length_take_le ..
  unfold State.advanced
  split
  · refine ⟨_, List.append_assoc .., ?_⟩
    simpa [filter_isTransaction_sentEntries, PortEvent.isTransaction] using hone
  · exact ⟨_, rfl, by rwa [filter_isTransaction_sentEntries]⟩

theorem State.sendIfDue_sendsAtMostOneTransaction {s : State} (hw : s.cfg.wf = true) (c b : Byte) :
    s.sendsAtMostOneTransaction (s.sendIfDue c b) := by
  obtain hs | ⟨-, -, hs⟩ | ⟨-, _, -, hs⟩ := State.sendIfDue_cases (c := c) (b := b) hw <;> rw [hs]
  · exact State.sendsAtMostOneTransaction_of_trace_eq rfl
  · exact s.advanced_one_sendsAtMostOneTransaction
  · exact ⟨[.busWrite s.cfg.busAddr c b .err, .done s.curOp .transport], rfl, le_rfl⟩

/-- The sequencer's turn sends one status read (R110), one bus write (R120), or no transaction. -/
theorem State.sequencerTurn_sendsAtMostOneTransaction {s t : State} (hw : s.cfg.wf = true)
    (h : s.sequencerTurn = .next t) : s.sendsAtMostOneTransaction t := by
  obtain ⟨-, hs⟩ | ⟨-, hs⟩ | ⟨-, answer, _, -, hs⟩ | ⟨c, b, -, hs⟩ | ⟨-, -, hs⟩ := s.sequencerTurn_cases <;>
    cases hs.symm.trans h
  · exact State.sendsAtMostOneTransaction_of_trace_eq rfl
  · exact ⟨[.busRead s.cfg.busAddr], rfl, le_rfl⟩
  · exact s.answerStatus_sendsAtMostOneTransaction answer
  · exact State.sendIfDue_sendsAtMostOneTransaction hw c b

theorem State.takeTurn_sendsAtMostOneTransaction {s t : State} {turn : Turn} (hw : s.cfg.wf = true)
    (h : s.takeTurn turn = .next t) : s.sendsAtMostOneTransaction t := by
  cases turn with
  | host => exact State.hostTurn_sendsAtMostOneTransaction h
  | sequencer => exact State.sequencerTurn_sendsAtMostOneTransaction hw h
  | reset =>
    cases h
    exact State.sendsAtMostOneTransaction_of_trace_eq rfl

/-- Settles O50: a step is nothing or the turn of one agent. -/
theorem atMostOneTransactionAStep : Obligations.AtMostOneTransactionAStep := by
  intro s t h
  obtain ⟨-, rfl⟩ | ⟨hw, turn, ts, -, hturn⟩ := step_next_cases h
  · exact State.sendsAtMostOneTransaction_of_trace_eq rfl
  · exact State.takeTurn_sendsAtMostOneTransaction (s := s.withTurns ts) hw hturn

end Sys2Proof.Machine
